-- ==== Sys2Proof/Word.lean ====
section
/-!
DEFINITION. The word and byte types of the RQP (00_scope R6: values are unsigned, bit 0 is the least significant).
-/
namespace Sys2Proof

/-- A command word or a 32-bit register (10_state R7, 30_encoding R36). -/
abbrev Word := BitVec 32

/-- A byte of IN or OUT, or one channel of a pixel (00_scope R6). -/
abbrev Byte := BitVec 8

end Sys2Proof
end

