-- ==== Sys2Proof/Config.lean ====
section
/-!
DEFINITION. What an implementation fixes (00_scope R5). `IN_ADDR_BITS` and `CNT_BITS` are 32 by that rule and stand in
the register types; `OUT_FIFO_DEPTH` affects timing only and has no place in the model (20_memory R29, log 9).
-/
namespace Sys2Proof

/-- The build parameters a model takes as an argument. -/
structure Params where
  /-- `HAS_BMP_DECODER` (00_scope R5, 30_encoding R41, 10_state R10): is the BMP decoder present? -/
  hasBmpDecoder : Bool
  deriving DecidableEq, Repr

/-- The value for this hardware (00_scope R5: the default is 1). -/
def Params.default : Params := ⟨true⟩

end Sys2Proof
end

