-- ==== Sys2Proof/Syntax.lean ====
section
/-!
DEFINITION. The commands of the RQP, one constructor per row of spec/opcode_table.json (30_encoding R37, R38).
-/
namespace Sys2Proof

/-- A command with its operand fields, taken straight from the bits of the word (30_encoding R37). -/
inductive Instr where
  /-- NOP, format Z (40_control R46). -/
  | nop
  /-- CONFIG, format C: `bpp` = w[7:0], `flip` = w[8], `pad` = w[9] (40_control R47). -/
  | config (bpp : Byte) (flip pad : Bool)
  /-- PUSH, format P: `r` = w[23:16], `g` = w[15:8], `b` = w[7:0] (42_packer R71). -/
  | push (r g b : Byte)
  /-- END, format Z (40_control R48). -/
  | endStream
  /-- DECODE_HEADER, format Z (41_bmp_decoder R55). -/
  | decodeHeader
  /-- CONVERT, format Z (41_bmp_decoder R61). -/
  | convert
  /-- RESET, format X: `ignored` = w[27:0] plays no part (30_encoding R40, 40_control R49). -/
  | reset (ignored : BitVec 28)
  deriving DecidableEq, Repr

end Sys2Proof
end

