-- ==== Sys2Proof/WellFormed.lean ====
section
/-!
DEFINITION. Which commands a build of the block has. Every operand field is exactly as wide as its place in the word, so
an operand is always in range; what can be wrong with a command is that the build leaves it out (30_encoding R41).
-/
namespace Sys2Proof

/-- DECODE_HEADER and CONVERT exist only when `HAS_BMP_DECODER` is 1 (30_encoding R41); every other command always does. -/
def Instr.wellFormed (p : Params) : Instr → Bool
  | .nop => true
  | .config _ _ _ => true
  | .push _ _ _ => true
  | .endStream => true
  | .decodeHeader => p.hasBmpDecoder
  | .convert => p.hasBmpDecoder
  | .reset _ => true

end Sys2Proof
end

