-- ==== Sys2Proof/Decode.lean ====
section
/-!
DEFINITION. The decoder of command words (30_encoding R36 to R41), total on every word and on every list of bytes, and
the encoder written from the same rows.
-/
namespace Sys2Proof

/-- A row of the opcode map (30_encoding R38). -/
inductive Op where
  | nop | config | push | endStream | decodeHeader | convert | reset
  deriving DecidableEq, Repr

/-- Why a word is an illegal command: the cases (a), (b) and (c) of 30_encoding R39. -/
inductive Illegal where
  /-- (a) the OP field is 0x6 to 0xE. -/
  | reservedOpcode
  /-- (b) a reserved bit is 1. -/
  | reservedBit
  /-- (c) a decoder command in a build without the decoder (30_encoding R41). -/
  | decoderAbsent
  deriving DecidableEq, Repr

/-- All rows, in the order of the map. -/
def Op.all : List Op := [.nop, .config, .push, .endStream, .decodeHeader, .convert, .reset]

/-- The "match" column of the opcode map (30_encoding R38). -/
def Op.pattern : Op → Word
  | .nop => 0x00000000#32
  | .config => 0x10000000#32
  | .push => 0x20000000#32
  | .endStream => 0x30000000#32
  | .decodeHeader => 0x40000000#32
  | .convert => 0x50000000#32
  | .reset => 0xF0000000#32

/-- The "mask" column of the opcode map (30_encoding R38). -/
def Op.mask : Op → Word
  | .nop => 0xFFFFFFFF#32
  | .config => 0xFFFFFC00#32
  | .push => 0xFF000000#32
  | .endStream => 0xFFFFFFFF#32
  | .decodeHeader => 0xFFFFFFFF#32
  | .convert => 0xFFFFFFFF#32
  | .reset => 0xF0000000#32

/-- "A word w encodes mnemonic m when (w & mask_m) = match_m" (30_encoding R38). -/
def Op.encodes (o : Op) (w : Word) : Bool := w &&& o.mask == o.pattern

/-- Bits 31:28, the OP field (30_encoding R36). -/
def opField (w : Word) : BitVec 4 := w.extractLsb' 28 4

/-- The row an OP field names; 0x6 to 0xE name none (30_encoding R38). -/
def opOfField (f : BitVec 4) : Option Op :=
  match f.toNat with
  | 0 => some .nop
  | 1 => some .config
  | 2 => some .push
  | 3 => some .endStream
  | 4 => some .decodeHeader
  | 5 => some .convert
  | 15 => some .reset
  | _ => none

/-- The two rows that `HAS_BMP_DECODER` = 0 takes away (30_encoding R41). -/
def Op.needsDecoder : Op → Bool
  | .decodeHeader => true
  | .convert => true
  | .nop => false
  | .config => false
  | .push => false
  | .endStream => false
  | .reset => false

/-- The operand fields of a word of a given row (30_encoding R37). -/
def Op.fields (w : Word) : Op → Instr
  | .nop => .nop
  | .config => .config (w.extractLsb' 0 8) (w.getLsbD 8) (w.getLsbD 9)
  | .push => .push (w.extractLsb' 16 8) (w.extractLsb' 8 8) (w.extractLsb' 0 8)
  | .endStream => .endStream
  | .decodeHeader => .decodeHeader
  | .convert => .convert
  | .reset => .reset (w.extractLsb' 0 28)

/-- The decode of a command word in a build (30_encoding R36 to R41 and the pseudocode after R41). -/
def decode (p : Params) (w : Word) : Except Illegal Instr :=
  match opOfField (opField w) with
  | none => .error .reservedOpcode
  | some o =>
    if o.needsDecoder && !p.hasBmpDecoder then .error .decoderAbsent
    else if o.encodes w then .ok (o.fields w)
    else .error .reservedBit

/-- A field's bits placed with its lowest bit at `lo`, in a word otherwise zero (00_scope R6). -/
def place {n : Nat} (lo : Nat) (x : BitVec n) : Word := x.setWidth 32 <<< lo

/-- A command word from the bytes of a byte-wide bus: the byte at the lowest offset is cmd[7:0] (20_memory R28). -/
def wordOfBytes (b0 b1 b2 b3 : Byte) : Word :=
  place 0 b0 ||| place 8 b1 ||| place 16 b2 ||| place 24 b3

/-- The bytes of a command word, lowest offset first (20_memory R28). -/
def bytesOfWord (w : Word) : List Byte :=
  [w.extractLsb' 0 8, w.extractLsb' 8 8, w.extractLsb' 16 8, w.extractLsb' 24 8]

/-- Why a list of bytes gives no command. -/
inductive BytesReject where
  /-- Fewer than the four bytes of a command word (30_encoding R36: there is only one length). -/
  | tooShort
  /-- The word is an illegal command (30_encoding R39). -/
  | illegal (why : Illegal)
  deriving DecidableEq, Repr

/-- The command at the front of a list of bytes, with the rest of the list. -/
def decodeBytes (p : Params) : List Byte → Except BytesReject (Instr × List Byte)
  | b0 :: b1 :: b2 :: b3 :: rest =>
    match decode p (wordOfBytes b0 b1 b2 b3) with
    | .ok i => .ok (i, rest)
    | .error e => .error (.illegal e)
  | _ => .error .tooShort

/-- The row of a command. -/
def Instr.op : Instr → Op
  | .nop => .nop
  | .config _ _ _ => .config
  | .push _ _ _ => .push
  | .endStream => .endStream
  | .decodeHeader => .decodeHeader
  | .convert => .convert
  | .reset _ => .reset

/-- The word of a command: OP in bits 31:28 and each operand field in its place (30_encoding R37); reserved bits are 0. -/
def encode : Instr → Word
  | .nop => place 28 0x0#4
  | .config bpp flip pad => place 28 0x1#4 ||| place 9 (BitVec.ofBool pad) ||| place 8 (BitVec.ofBool flip) ||| place 0 bpp
  | .push r g b => place 28 0x2#4 ||| place 16 r ||| place 8 g ||| place 0 b
  | .endStream => place 28 0x3#4
  | .decodeHeader => place 28 0x4#4
  | .convert => place 28 0x5#4
  | .reset ignored => place 28 0xF#4 ||| place 0 ignored

/-- What the decoder reads from a table row's word `w`, for this hardware's build: the word is laid out as its four bytes
on a byte-wide bus and read back from them (20_memory R28; log 14). Every command is one 32-bit word, so `nbits` adds
nothing. -/
def decodeTableWord (_nbits w : Nat) : Option Instr :=
  match decodeBytes Params.default (bytesOfWord (BitVec.ofNat 32 w)) with
  | .ok (i, []) => some i
  | .ok (_, _ :: _) => none
  | .error _ => none

end Sys2Proof
end

