-- ==== Sys2Proof/Machine/State.lean ====
section
/-!
DEFINITION. The state of the RQP as plain data: everything 10_state R7 lists, the host's input memory, and the host's
steps still to come (20_memory R22). 70_reset_and_hazards R83 gives every reset value of the block.
-/
namespace Sys2Proof.Machine

/-- The legal values of CTRL.BPP (10_state R9: CTRL.BPP only ever holds one of them; log 16). -/
inductive Depth where
  | bpp8 | bpp12 | bpp16 | bpp24
  deriving DecidableEq, Repr

/-- CTRL.PADMODE (10_state R9, 41_bmp_decoder R56): 0 is `compat`, 1 is `bmp`. -/
inductive PadMode where
  | compat | bmp
  deriving DecidableEq, Repr

/-- CTRL, register offset 0x04 (10_state R9). -/
structure Ctrl where
  bpp : Depth
  flip : Bool
  padMode : PadMode
  deriving DecidableEq, Repr

/-- STATUS.STATE (10_state R10): 0 IDLE, 1 STREAM, 2 ERROR; 3 is never held. -/
inductive BlockState where
  | idle | stream | error
  deriving DecidableEq, Repr

/-- The header bank: the 14 HDR_* registers, each zero-extended to 32 bits (10_state R16). -/
structure Header where
  ident : Word
  fileSize : Word
  dataOffset : Word
  headerSize : Word
  width : Word
  height : Word
  planes : Word
  bpp : Word
  compression : Word
  dataSize : Word
  hres : Word
  vres : Word
  colors : Word
  importantColors : Word
  deriving DecidableEq, Repr

/-- The bank with every register 0 (10_state R16). -/
def Header.zero : Header := ⟨0, 0, 0, 0, 0, 0, 0, 0, 0, 0, 0, 0, 0, 0⟩

/-- The contents of IN: address and byte, addresses strictly rising, no entry equal to what an unlisted address reads as. -/
abbrev Memory := List Host.Cell

/-- A step of the host (20_memory R22). -/
inductive HostStep where
  /-- A register-port write of `size` bytes at `offset` (10_state R18, R19): CMD at 0x00 executes, IN_LEN at 0x1C is set. -/
  | write (size offset : Nat) (v : Word)
  /-- A write of CMD whose word arrives as four bytes, lowest offset first (20_memory R28). -/
  | writeCmdBytes (b0 b1 b2 b3 : Byte)
  /-- A register-port read of `size` bytes at `offset` (10_state R18, R19). -/
  | read (size offset : Nat)
  /-- A change of one byte of the input memory IN (20_memory R22). -/
  | setIn (a : Nat) (b : Byte)
  /-- Drain `k` bytes from OUT (20_memory R29). -/
  | drain (k : Nat)
  /-- Assert hardware reset (70_reset_and_hazards R83). -/
  | hardwareReset
  deriving DecidableEq, Repr

/-- The machine's state. -/
structure State where
  /-- `HAS_BMP_DECODER`, fixed at build time; STATUS.DEC is hardwired to it (10_state R10). -/
  params : Params
  /-- CTRL (10_state R9). -/
  ctrl : Ctrl
  /-- STATUS.STATE (10_state R10). -/
  state : BlockState
  /-- STATUS.PHASE (10_state R10). -/
  phase : Bool
  /-- STATUS.HDR_VALID (10_state R10). -/
  hdrValid : Bool
  /-- ERRCODE[7:0] (10_state R11). -/
  errcode : BitVec 8
  /-- ERRINFO (10_state R12). -/
  errinfo : Word
  /-- PIXCNT (10_state R13). -/
  pixcnt : Word
  /-- BYTECNT (10_state R14). -/
  bytecnt : Word
  /-- IN_LEN (10_state R15). -/
  inLen : Word
  /-- The header bank (10_state R16). -/
  hdr : Header
  /-- HOLD (10_state R17). -/
  hold : BitVec 4
  /-- OUT, the oldest byte first (20_memory R29). -/
  out : List Byte
  /-- The host-owned input memory IN (20_memory R22). -/
  inMem : Memory
  /-- The model's own: the host's steps still to come, the next one first (log 3). -/
  host : List HostStep
  /-- The model's own: what the host's register reads returned, the oldest first (log 4). -/
  readData : List Word
  /-- The model's own: the bytes the host has drained, in order (log 4). -/
  drained : List Byte
  deriving DecidableEq, Repr

/-- CTRL after a reset, 0x0000000C (10_state R9, 70_reset_and_hazards R83). -/
def Ctrl.reset : Ctrl := ⟨.bpp12, false, .compat⟩

/-- The machine right after hardware reset in a build with parameters `p` (70_reset_and_hazards R83), before the host has
done anything. -/
def State.resetWith (p : Params) : State where
  params := p
  ctrl := Ctrl.reset
  state := .idle
  phase := false
  hdrValid := false
  errcode := 0
  errinfo := 0
  pixcnt := 0
  bytecnt := 0
  inLen := 0
  hdr := Header.zero
  hold := 0
  out := []
  inMem := []
  host := []
  readData := []
  drained := []

/-- The machine right after reset, for this hardware's build. -/
def State.reset : State := State.resetWith Params.default

/-- Why the machine stops. No command and no error of the block is among them: those are next states (60_exceptions R74). -/
inductive Fault where
  /-- Raised by a read of IN at or above IN_LEN (20_memory R23). No rule reaches it. Safe: the model stops. -/
  | inReadPastEnd
  /-- Raised by the host step `setIn` at an address IN does not have, 2^32 - 1 or above (20_memory R22). Safe: the model
  stops. -/
  | noSuchInAddress
  deriving DecidableEq, Repr

/-- What the model gives no meaning to. -/
inductive Refusal where
  /-- Raised by an arm of exec for a command without a meaning; no arm does. Safe: the model stops. -/
  | notModelled (mnemonic : String)
  /-- Raised by the host steps `write` and `read` for an access that is not one 32-bit word at a multiple of 4 below 0x100
  (10_state R19, 20_memory R28: the model refuses it). Safe: the model stops. -/
  | portAccess
  /-- Raised by the host step `drain` for more bytes than OUT holds (20_memory R29 gives only k <= len(OUT)). Safe: the model
  stops. -/
  | drainPastEnd
  deriving DecidableEq, Repr

end Sys2Proof.Machine
end

