-- ==== Sys2Proof/Machine/Ops.lean ====
section
/-!
DEFINITION. The named operations over the input memory, the output queue, the header bank, the stream and the error
registers. Entering the error state is `State.raise` (60_exceptions R74); the two ways out are `State.hwReset` and
`State.cmdReset` (60_exceptions R78).
-/
namespace Sys2Proof.Machine

/-- A step's answer. -/
abbrev Result := Host.Outcome State Fault Refusal

/-! ## The input memory -/

/-- What a byte of IN that the host has not written reads as (log 2). -/
def Memory.unlisted : Byte := 0

/-- The first address IN does not have: its addresses are 0 .. 2^32 - 2 (20_memory R22, 00_scope R5). -/
def Memory.limit : Nat := 2 ^ 32 - 1

/-- The byte of IN at an address. -/
def Memory.read : Memory → Nat → Byte
  | [], _ => Memory.unlisted
  | (x, v) :: m, a => if x = a then v else Memory.read m a

/-- The memory with the byte at `a` set to `b`, in canonical form if it was before: an entry with the value of an unlisted
byte is left out. -/
def Memory.write : Memory → Nat → Byte → Memory
  | [], a, b => if b = Memory.unlisted then [] else [(a, b)]
  | (x, v) :: m, a, b =>
    if a < x then (if b = Memory.unlisted then (x, v) :: m else (a, b) :: (x, v) :: m)
    else if a = x then (if b = Memory.unlisted then m else (a, b) :: m)
    else (x, v) :: Memory.write m a b

/-- Every address of the memory is above `lo` steps in, strictly rising, within IN, and its entry is not what an unlisted
byte reads as. -/
def Memory.wfFrom : Nat → Memory → Bool
  | _, [] => true
  | lo, (x, v) :: m => decide (lo ≤ x) && decide (x < Memory.limit) && (v != Memory.unlisted) && Memory.wfFrom (x + 1) m

/-- The canonical form of the memory: addresses strictly rising, each one IN has, no entry equal to an unlisted byte. -/
def Memory.wf (m : Memory) : Bool := Memory.wfFrom 0 m

/-- `InRead(a)`: the byte at address `a`, defined only below IN_LEN (20_memory R23). -/
def State.inRead (s : State) (a : Nat) : Option Byte :=
  if a < s.inLen.toNat then some (Memory.read s.inMem a) else none

/-! ## The output queue -/

/-- `Emit(bs)`: append to OUT in order and add the length to BYTECNT modulo 2^32 (20_memory R29). -/
def State.emit (s : State) (bs : List Byte) : State :=
  { s with out := s.out ++ bs, bytecnt := s.bytecnt + BitVec.ofNat 32 bs.length }

/-- A host drain of `k` bytes: the first `k` bytes leave OUT and go to the host in order (20_memory R29). -/
def State.drainOut (s : State) (k : Nat) : State :=
  { s with out := s.out.drop k, drained := s.drained ++ s.out.take k }

/-! ## Errors: entry and the two exits -/

/-- The error kinds (60_exceptions R73). -/
inductive ErrKind where
  | invalidFormat | unsupportedPlanes | unsupportedBitDepth | unsupportedCompression | truncatedData
  | inputOpenFailed | outputOpenFailed | unsupportedOutputBpp | illegalCommand | sequenceError
  deriving DecidableEq, Repr

/-- The code of an error kind (60_exceptions R73). -/
def ErrKind.code : ErrKind → BitVec 8
  | .invalidFormat => 1
  | .unsupportedPlanes => 2
  | .unsupportedBitDepth => 3
  | .unsupportedCompression => 4
  | .truncatedData => 5
  | .inputOpenFailed => 6
  | .outputOpenFailed => 7
  | .unsupportedOutputBpp => 8
  | .illegalCommand => 9
  | .sequenceError => 10

/-- `raise E(info)`, the block's only trap entry (60_exceptions R74). -/
def State.raise (s : State) (e : ErrKind) (info : Word) : State :=
  { s with errcode := e.code, errinfo := info, state := .error }

/-- The hardware-reset assignment (70_reset_and_hazards R83): every register of 10_state R7, and OUT emptied. IN, the build
parameter and what belongs to the host are not touched. -/
def State.hwReset (s : State) : State :=
  { s with
    ctrl := Ctrl.reset
    state := .idle
    phase := false
    hdrValid := false
    errcode := 0
    errinfo := 0
    pixcnt := 0
    bytecnt := 0
    inLen := 0
    hdr := Header.zero
    hold := 0
    out := [] }

/-- What the RESET command does: the same assignment, but IN_LEN is kept (40_control R49). -/
def State.cmdReset (s : State) : State := { s.hwReset with inLen := s.inLen }

/-- In the ERROR state a command other than RESET is ignored (40_control R45, 60_exceptions R77); otherwise it runs. -/
def State.unlessError (s : State) (run : Result) : Result :=
  match s.state with
  | .error => .next s
  | .idle => run
  | .stream => run

/-! ## The header bank -/

/-- `ClearHeaderBank()` (41_bmp_decoder R54). -/
def State.clearHeaderBank (s : State) : State := { s with hdr := Header.zero, hdrValid := false }

/-- `CommitHeader(h)` (41_bmp_decoder R54). -/
def State.commitHeader (s : State) (h : Header) : State := { s with hdr := h, hdrValid := true }

/-! ## The stream -/

/-- The counters and the pair state cleared, as the start of a stream and a CONVERT do (42_packer R71, 41_bmp_decoder R61). -/
def State.clearCounts (s : State) : State := { s with pixcnt := 0, bytecnt := 0, phase := false, hold := 0 }

/-- The start of a stream when the block is IDLE (42_packer R71); an open stream goes on. -/
def State.openStream (s : State) : State :=
  match s.state with
  | .idle => { s.clearCounts with state := .stream }
  | .stream => s
  | .error => s

/-- The end of an open stream (40_control R48); no effect in IDLE. -/
def State.closeStream (s : State) : State :=
  match s.state with
  | .stream => { s with phase := false, hold := 0, state := .idle }
  | .idle => s
  | .error => s

end Sys2Proof.Machine
end

