-- ==== Sys2Proof/Machine/Operands.lean ====
section
/-!
DEFINITION. The operand forms: a pixel in a command word or in IN, a little-endian field of IN, and the depth, flip and
padding operands of CONFIG (30_encoding R37, 20_memory R24 and R25, 40_control R47).
-/
namespace Sys2Proof.Machine

/-- A pixel: three channels of one byte (00_scope R6). -/
structure Pixel where
  r : Byte
  g : Byte
  b : Byte
  deriving DecidableEq, Repr

/-- The number of bits per pixel a depth stands for, as CTRL[7:0] holds it (10_state R9). -/
def Depth.bits : Depth → Byte
  | .bpp8 => 8
  | .bpp12 => 12
  | .bpp16 => 16
  | .bpp24 => 24

/-- The depth a CONFIG operand asks for; `none` where it has no packer (40_control R47). -/
def depthOf (bpp : Byte) : Option Depth :=
  match bpp.toNat with
  | 8 => some .bpp8
  | 12 => some .bpp12
  | 16 => some .bpp16
  | 24 => some .bpp24
  | _ => none

/-- The padding mode a CONFIG operand asks for (10_state R9). -/
def padModeOf : Bool → PadMode
  | false => .compat
  | true => .bmp

/-- `LE16(a)`, zero-extended to a register (20_memory R24). -/
def State.le16 (s : State) (a : Nat) : Option Word :=
  match s.inRead a, s.inRead (a + 1) with
  | some b0, some b1 => some (wordOfBytes b0 b1 0 0)
  | _, _ => none

/-- `LE32(a)` (20_memory R24). -/
def State.le32 (s : State) (a : Nat) : Option Word :=
  match s.inRead a, s.inRead (a + 1), s.inRead (a + 2), s.inRead (a + 3) with
  | some b0, some b1, some b2, some b3 =>
    some (wordOfBytes b0 b1 b2 b3)
  | _, _, _, _ => none

/-- `LoadPixel(a)`: three consecutive bytes of IN in the order blue, green, red (20_memory R25, 41_bmp_decoder R58). -/
def State.loadPixel (s : State) (a : Nat) : Option Pixel :=
  match s.inRead a, s.inRead (a + 1), s.inRead (a + 2) with
  | some b, some g, some r => some ⟨r, g, b⟩
  | _, _, _ => none

/-- The pixels at a list of addresses, in order. -/
def State.loadAll (s : State) : List Nat → Option (List Pixel)
  | [] => some []
  | a :: as =>
    match s.loadPixel a, State.loadAll s as with
    | some p, some ps => some (p :: ps)
    | _, _ => none

end Sys2Proof.Machine
end

