-- ==== Sys2Proof/Machine/Flags.lean ====
section
/-!
DEFINITION. The status fields as software reads them: the words of CTRL, STATUS and ERRCODE (10_state R9, R10, R11). The
block has no other flags (10_state R20).
-/
namespace Sys2Proof.Machine

/-- STATUS[1:0] (10_state R10). -/
def BlockState.bits : BlockState → BitVec 2
  | .idle => 0
  | .stream => 1
  | .error => 2

/-- CTRL[9] (10_state R9). -/
def PadMode.bit : PadMode → BitVec 1
  | .compat => 0
  | .bmp => 1

/-- CTRL as it reads: bits 31:10 are 0 (10_state R9). -/
def Ctrl.word (c : Ctrl) : Word := place 9 c.padMode.bit ||| place 8 (BitVec.ofBool c.flip) ||| place 0 c.bpp.bits

/-- STATUS as it reads: bits 31:5 are 0, DEC is the build parameter (10_state R10). -/
def State.statusWord (s : State) : Word :=
  place 4 (BitVec.ofBool s.params.hasBmpDecoder) ||| place 3 (BitVec.ofBool s.hdrValid) |||
    place 2 (BitVec.ofBool s.phase) ||| place 0 s.state.bits

/-- ERRCODE as it reads: bits 31:8 are 0 (10_state R11). -/
def State.errcodeWord (s : State) : Word := place 0 s.errcode

end Sys2Proof.Machine
end

