-- ==== Sys2Proof/Machine/Control.lean ====
section
/-!
DEFINITION. The control commands NOP, CONFIG, END and RESET (40_control). Where a rule puts "the command word" into
ERRINFO, the word is `encode` of the command: every bit of a legal word other than RESET is fixed or a field (log 17).
-/
namespace Sys2Proof.Machine

/-- NOP (40_control R46): nothing, in every state. -/
def execNop (s : State) : Result := s.unlessError (.next s)

/-- CONFIG (40_control R47). -/
def execConfig (bpp : Byte) (flip pad : Bool) (s : State) : Result :=
  s.unlessError <|
    if s.state = .stream then .next (s.raise .sequenceError (encode (.config bpp flip pad)))
    else
      match depthOf bpp with
      | none => .next (s.raise .unsupportedOutputBpp (bpp.setWidth 32))
      | some d => .next { s with ctrl := ⟨d, flip, padModeOf pad⟩ }

/-- END (40_control R48). -/
def execEnd (s : State) : Result := s.unlessError (.next s.closeStream)

/-- RESET (40_control R49): runs in every state, ERROR included; the ignored bits play no part (30_encoding R40). -/
def execReset (_ignored : BitVec 28) (s : State) : Result := .next s.cmdReset

end Sys2Proof.Machine
end

