-- ==== Sys2Proof/Machine/Packer.lean ====
section
/-!
DEFINITION. The bit-depth packer (42_packer): the pack functions R64 to R68, `PackStream` R69, `OutLen` R70, and the
command PUSH R71. Byte arithmetic is the rules' own: a left shift of a byte keeps its low eight bits (`trunc8`, R67).
-/
namespace Sys2Proof.Machine

/-- `Pack8` (42_packer R64): RRRGGGBB. -/
def pack8 (p : Pixel) : List Byte := [(p.r &&& 0xE0#8) ||| ((p.g >>> 3) &&& 0x1C#8) ||| ((p.b >>> 6) &&& 0x03#8)]

/-- byte1 of `Pack12Pair` and the only byte of `Pack12Tail` (42_packer R65, R66). -/
def pack12First (p : Pixel) : Byte := (p.r &&& 0xF0#8) ||| (p.g >>> 4)

/-- `Pack12Pair` (42_packer R65): RRRRGGGG BBBBRRRR GGGGBBBB. -/
def pack12Pair (p1 p2 : Pixel) : List Byte :=
  [pack12First p1, (p1.b &&& 0xF0#8) ||| (p2.r >>> 4), (p2.g &&& 0xF0#8) ||| (p2.b >>> 4)]

/-- `Pack12Tail` (42_packer R66): one byte (90_conflicts C1, log 11). -/
def pack12Tail (p : Pixel) : List Byte := [pack12First p]

/-- `Pack16` (42_packer R67): the literal formula, not RGB565 (90_conflicts C2, log 12). -/
def pack16 (p : Pixel) : List Byte :=
  [(p.r &&& 0xF8#8) ||| (p.g >>> 5), (p.g <<< 3) ||| ((p.b >>> 3) &&& 0x1F#8)]

/-- `Pack24` (42_packer R68). -/
def pack24 (p : Pixel) : List Byte := [p.r, p.g, p.b]

/-- `PackStream(12, ps)` (42_packer R69): pairs from the start, and a tail for an odd last pixel. -/
def pack12All : List Pixel → List Byte
  | [] => []
  | [p] => pack12Tail p
  | p1 :: p2 :: ps => pack12Pair p1 p2 ++ pack12All ps

/-- `PackStream(bpp, ps)` (42_packer R69). -/
def packStream (d : Depth) (ps : List Pixel) : List Byte :=
  match d with
  | .bpp8 => ps.flatMap pack8
  | .bpp12 => pack12All ps
  | .bpp16 => ps.flatMap pack16
  | .bpp24 => ps.flatMap pack24

/-- `OutLen(bpp, n)` (42_packer R70). -/
def outLen (d : Depth) (n : Nat) : Nat :=
  match d with
  | .bpp8 => n
  | .bpp12 => 3 * (n / 2) + n % 2
  | .bpp16 => 2 * n
  | .bpp24 => 3 * n

/-- The 12 bpp case of PUSH (42_packer R71): the first pixel of a pair emits byte1 and leaves its blue nibble in HOLD; the
second emits byte2 and byte3. -/
def State.push12 (s : State) (p : Pixel) : State :=
  if s.phase = false then
    { s.emit [pack12First p] with hold := (p.b >>> 4).setWidth 4, phase := true }
  else
    { s.emit [(s.hold.setWidth 8 <<< 4) ||| (p.r >>> 4), (p.g &&& 0xF0#8) ||| (p.b >>> 4)] with hold := 0, phase := false }

/-- What PUSH emits for a pixel in an open stream, at each depth (42_packer R71). -/
def State.packOne (s : State) (p : Pixel) : State :=
  match s.ctrl.bpp with
  | .bpp8 => s.emit (pack8 p)
  | .bpp16 => s.emit (pack16 p)
  | .bpp24 => s.emit (pack24 p)
  | .bpp12 => s.push12 p

/-- `PIXCNT <- (PIXCNT + 1) mod 2^32` (42_packer R71). -/
def State.countPixel (s : State) : State := { s with pixcnt := s.pixcnt + 1 }

/-- PUSH (42_packer R71). -/
def execPush (r g b : Byte) (s : State) : Result :=
  s.unlessError (.next ((s.openStream.packOne ⟨r, g, b⟩).countPixel))

end Sys2Proof.Machine
end

