-- ==== Sys2Proof/Machine/Decoder.lean ====
section
/-!
DEFINITION. The BMP header decoder and pixel loader (41_bmp_decoder): `ReadHeader` R51, the checks R52 and R53, the
commands DECODE_HEADER R55 and CONVERT R61. Addresses and sizes are computed on naturals, without wrap (20_memory R34).
-/
namespace Sys2Proof.Machine

/-- `ReadHeader()` (41_bmp_decoder R51) at the file offsets of 10_state R16. -/
def State.readHeader (s : State) : Option Header := do
  let ident ← s.le16 0x00
  let fileSize ← s.le32 0x02
  let dataOffset ← s.le32 0x0A
  let headerSize ← s.le32 0x0E
  let width ← s.le32 0x12
  let height ← s.le32 0x16
  let planes ← s.le16 0x1A
  let bpp ← s.le16 0x1C
  let compression ← s.le32 0x1E
  let dataSize ← s.le32 0x22
  let hres ← s.le32 0x26
  let vres ← s.le32 0x2A
  let colors ← s.le32 0x2E
  let importantColors ← s.le32 0x32
  some ⟨ident, fileSize, dataOffset, headerSize, width, height, planes, bpp, compression, dataSize, hres, vres, colors,
    importantColors⟩

/-- The first of the four "must equal" checks that a header fails, with its information word (41_bmp_decoder R53). -/
def headerFailure (h : Header) : Option (ErrKind × Word) :=
  if h.ident ≠ 0x4D42 then some (.invalidFormat, h.ident)
  else if h.planes ≠ 1 then some (.unsupportedPlanes, h.planes)
  else if h.bpp ≠ 24 then some (.unsupportedBitDepth, h.bpp)
  else if h.compression ≠ 0 then some (.unsupportedCompression, h.compression)
  else none

/-- One past the last byte of the last header field (41_bmp_decoder R52). -/
def headerBytes : Nat := 54

/-- `DecodeHeaderChecked()` (41_bmp_decoder R55), then `k` with the committed state and the header. -/
def State.decodeHeaderChecked (s : State) (k : State → Header → Result) : Result :=
  if s.inLen.toNat < headerBytes then
    .next (s.clearHeaderBank.raise .truncatedData (BitVec.ofNat 32 headerBytes))
  else
    match s.readHeader with
    | none => .fault .inReadPastEnd
    | some h =>
      match headerFailure h with
      | some (e, info) => .next (s.clearHeaderBank.raise e info)
      | none => k (s.commitHeader h) h

/-- A command of the optional decoder: illegal, with the command word as information, in a build without it
(30_encoding R41). -/
def State.withDecoder (s : State) (i : Instr) (run : Result) : Result :=
  if s.params.hasBmpDecoder then run else .next (s.raise .illegalCommand (encode i))

/-- `Pad(w)` (41_bmp_decoder R56). -/
def pad (m : PadMode) (w : Nat) : Nat :=
  match m with
  | .compat => (3 * w) % 4
  | .bmp => (4 - (3 * w) % 4) % 4

/-- The bytes from one row to the next (41_bmp_decoder R57). -/
def stride (c : Ctrl) (h : Header) : Nat := 3 * h.width.toNat + pad c.padMode h.width.toNat

/-- The number of pixels `n`, exact (41_bmp_decoder R57). -/
def pixelCount (h : Header) : Nat := h.width.toNat * h.height.toNat

/-- The row on disk of sequence row `i` (41_bmp_decoder R57). -/
def fileRow (c : Ctrl) (h : Header) (i : Nat) : Nat :=
  if c.flip then h.height.toNat - 1 - i else i

/-- `PixAddr(k)` (41_bmp_decoder R57). -/
def pixAddr (c : Ctrl) (h : Header) (k : Nat) : Nat :=
  h.dataOffset.toNat + fileRow c h (k / h.width.toNat) * stride c h + 3 * (k % h.width.toNat)

/-- `End`, one past the last pixel byte (41_bmp_decoder R59). -/
def pixelEnd (c : Ctrl) (h : Header) : Nat :=
  h.dataOffset.toNat + (h.height.toNat - 1) * stride c h + 3 * h.width.toNat

/-- `min(End, 0xFFFFFFFF)` as an information word (41_bmp_decoder R59). -/
def saturate (n : Nat) : Word := BitVec.ofNat 32 (min n 0xFFFFFFFF)

/-- Does the pixel region end past IN_LEN (41_bmp_decoder R59)? -/
def State.truncated (s : State) (h : Header) : Bool :=
  decide (0 < pixelCount h) && decide (s.inLen.toNat < pixelEnd s.ctrl h)

/-- `LoadPixels(h)` (41_bmp_decoder R60). -/
def State.loadPixels (s : State) (h : Header) : Option (List Pixel) :=
  s.loadAll ((List.range (pixelCount h)).map (pixAddr s.ctrl h))

/-- A whole image of `n` pixels packed into OUT, with the counters of its stream (41_bmp_decoder R61). -/
def State.emitImage (s : State) (n : Nat) (ps : List Pixel) : State :=
  { s.clearCounts.emit (packStream s.ctrl.bpp ps) with pixcnt := BitVec.ofNat 32 n }

/-- CONVERT after its header has been committed (41_bmp_decoder R61): the truncation check, then load, pack and emit. -/
def State.convertPixels (s : State) (h : Header) : Result :=
  if s.truncated h then .next (s.raise .truncatedData (saturate (pixelEnd s.ctrl h)))
  else
    match s.loadPixels h with
    | none => .fault .inReadPastEnd
    | some ps => .next (s.emitImage (pixelCount h) ps)

/-- DECODE_HEADER (41_bmp_decoder R55). -/
def execDecodeHeader (s : State) : Result :=
  s.unlessError <| s.withDecoder .decodeHeader <| s.decodeHeaderChecked fun s' _ => .next s'

/-- CONVERT (41_bmp_decoder R61). -/
def execConvert (s : State) : Result :=
  s.unlessError <| s.withDecoder .convert <|
    if s.state = .stream then .next (s.raise .sequenceError (encode .convert))
    else s.decodeHeaderChecked fun s' h => s'.convertPixels h

end Sys2Proof.Machine
end

