-- ==== Sys2Proof/Machine/Dispatch.lean ====
section
/-!
DEFINITION. The one dispatch from a command to its meaning (40_control R45).
-/
namespace Sys2Proof.Machine

def exec (i : Instr) (s : State) : Host.Outcome State Fault Refusal :=
  match i with
  | .nop => Sys2Proof.Machine.execNop s
  | .config bpp flip pad => Sys2Proof.Machine.execConfig bpp flip pad s
  | .push r g b => Sys2Proof.Machine.execPush r g b s
  | .endStream => Sys2Proof.Machine.execEnd s
  | .decodeHeader => Sys2Proof.Machine.execDecodeHeader s
  | .convert => Sys2Proof.Machine.execConvert s
  | .reset ignored => Sys2Proof.Machine.execReset ignored s

end Sys2Proof.Machine
end

