-- ==== Sys2Proof/Machine/Port.lean ====
section
/-!
DEFINITION. The register port and the host's steps (10_state R18 and R19, 20_memory R22 and R28, 40_control R45 and R50).
-/
namespace Sys2Proof.Machine

/-- `Execute(w)` (40_control R45): a command word runs to completion. In ERROR an illegal word is ignored like every other
word but a RESET (30_encoding R39). -/
def State.execute (s : State) (w : Word) : Result :=
  match decode s.params w with
  | .ok i => exec i s
  | .error _ => s.unlessError (.next (s.raise .illegalCommand w))

/-- The accesses the register port has (10_state R19): 32-bit words at multiples of 4 below 0x100. -/
def portAccessOk (size offset : Nat) : Bool := size == 4 && offset % 4 == 0 && decide (offset < 0x100)

/-- What a read of the register at an offset returns (10_state R18): CMD and the reserved offsets read 0. -/
def State.regRead (s : State) (offset : Nat) : Word :=
  match offset with
  | 0x04 => s.ctrl.word
  | 0x08 => s.statusWord
  | 0x0C => s.errcodeWord
  | 0x10 => s.errinfo
  | 0x14 => s.pixcnt
  | 0x18 => s.bytecnt
  | 0x1C => s.inLen
  | 0x20 => s.hdr.ident
  | 0x24 => s.hdr.fileSize
  | 0x28 => s.hdr.dataOffset
  | 0x2C => s.hdr.headerSize
  | 0x30 => s.hdr.width
  | 0x34 => s.hdr.height
  | 0x38 => s.hdr.planes
  | 0x3C => s.hdr.bpp
  | 0x40 => s.hdr.compression
  | 0x44 => s.hdr.dataSize
  | 0x48 => s.hdr.hres
  | 0x4C => s.hdr.vres
  | 0x50 => s.hdr.colors
  | 0x54 => s.hdr.importantColors
  | _ => 0

/-- `IN_LEN <- v` (40_control R50). -/
def State.writeInLen (s : State) (v : Word) : State := { s with inLen := v }

/-- A register-port write (10_state R19): CMD executes, IN_LEN is set, any other register of the window ignores it. -/
def State.portWrite (s : State) (size offset : Nat) (v : Word) : Result :=
  if portAccessOk size offset then
    if offset = 0x00 then s.execute v
    else if offset = 0x1C then .next (s.writeInLen v)
    else .next s
  else .refused .portAccess

/-- A register-port read (10_state R19): the host gets the value, the block does not change. -/
def State.portRead (s : State) (size offset : Nat) : Result :=
  if portAccessOk size offset then .next { s with readData := s.readData ++ [s.regRead offset] }
  else .refused .portAccess

/-- The host changes one byte of IN (20_memory R22). -/
def State.hostSetIn (s : State) (a : Nat) (b : Byte) : Result :=
  if a < Memory.limit then .next { s with inMem := Memory.write s.inMem a b } else .fault .noSuchInAddress

/-- The host drains `k` bytes (20_memory R29). -/
def State.hostDrain (s : State) (k : Nat) : Result :=
  if k ≤ s.out.length then .next (s.drainOut k) else .refused .drainPastEnd

/-- One step of the host (20_memory R22), with whatever the block does in it. -/
def State.hostStep (s : State) (h : HostStep) : Result :=
  match h with
  | .write size offset v => s.portWrite size offset v
  | .writeCmdBytes b0 b1 b2 b3 => s.execute (wordOfBytes b0 b1 b2 b3)
  | .read size offset => s.portRead size offset
  | .setIn a b => s.hostSetIn a b
  | .drain k => s.hostDrain k
  | .hardwareReset => .next s.hwReset

end Sys2Proof.Machine
end

