-- ==== Sys2Proof/Machine/Step.lean ====
section
/-!
DEFINITION. One step of the machine: the host's next step, from the list that State holds (log 3).
-/
namespace Sys2Proof.Machine

/-- The host's next step is taken off the list and performed. With none left the block waits for a command write
(70_reset_and_hazards R83), and nothing changes. -/
def step (s : State) : Host.Outcome State Fault Refusal :=
  match s.host with
  | [] => .next s
  | h :: rest => State.hostStep { s with host := rest } h

/-- The state whose next host step writes the command word `w` to CMD, so that `step` runs it (log 3): the block does not
fetch commands, the host writes them (10_state R8). -/
def State.withFetchWord (s : State) (_nbits w : Nat) : State :=
  { s with host := .write 4 0x00 (BitVec.ofNat 32 w) :: s.host }

end Sys2Proof.Machine
end

