-- ==== Sys2Proof/Machine/Assembler.lean ====
section
/-!
DEFINITION. The assembly lines of the RQP and their words (30_encoding R42, R43): the lines as data, what the assembler
refuses, and the reading of a program's text. The host writes a program's words to CMD in order (10_state R8).
-/
namespace Sys2Proof.Machine

/-- One assembly line with its operands as written (30_encoding R42, R43). -/
inductive AsmLine where
  | nop
  | config (bpp flip pad : Nat)
  /-- The pseudo-instruction `CONFIG <bpp>` (30_encoding R43). -/
  | configDepth (bpp : Nat)
  | push (r g b : Nat)
  | endStream
  | decodeHeader
  | convert
  | reset
  /-- `.word <u32>`: a raw command word, any value. -/
  | word (u32 : Nat)
  deriving DecidableEq, Repr

/-- Every operand of the line is in its range (30_encoding R42). -/
def AsmLine.wellFormed : AsmLine → Bool
  | .nop => true
  | .config bpp flip pad => decide (bpp ≤ 255) && decide (flip ≤ 1) && decide (pad ≤ 1)
  | .configDepth bpp => decide (bpp ≤ 255)
  | .push r g b => decide (r ≤ 255) && decide (g ≤ 255) && decide (b ≤ 255)
  | .endStream => true
  | .decodeHeader => true
  | .convert => true
  | .reset => true
  | .word u32 => decide (u32 < 2 ^ 32)

/-- The word of a line whose operands are in range (30_encoding R42, R43). -/
def AsmLine.code : AsmLine → Word
  | .nop => encode .nop
  | .config bpp flip pad => encode (.config (BitVec.ofNat 8 bpp) (flip == 1) (pad == 1))
  | .configDepth bpp => encode (.config (BitVec.ofNat 8 bpp) false false)
  | .push r g b => encode (.push (BitVec.ofNat 8 r) (BitVec.ofNat 8 g) (BitVec.ofNat 8 b))
  | .endStream => encode .endStream
  | .decodeHeader => encode .decodeHeader
  | .convert => encode .convert
  | .reset => encode (.reset 0)
  | .word u32 => BitVec.ofNat 32 u32

/-- The assembler: it refuses an operand outside its range (30_encoding R42). -/
def assemble (l : AsmLine) : Option Word := if l.wellFormed then some l.code else none

/-- A program is a list of lines, in order; one refused line refuses it (30_encoding R42). -/
def assembleProgram : List AsmLine → Option (List Word)
  | [] => some []
  | l :: ls =>
    match assemble l, assembleProgram ls with
    | some w, some ws => some (w :: ws)
    | _, _ => none

/-! ## The text of a program -/

/-- A token of a line. -/
inductive Token where
  | comma
  | atom (cs : List Char)
  deriving DecidableEq, Repr

/-- DESIGN CHOICE: spaces, tabs and carriage returns separate tokens (log 15). -/
def isBlank (c : Char) : Bool := c == ' ' || c == '\t' || c == '\r'

/-- A pending atom in front of the tokens after it. -/
def flushAtom (acc : List Char) (ts : List Token) : List Token :=
  match acc with
  | [] => ts
  | c :: cs => .atom (c :: cs).reverse :: ts

/-- The tokens of a line; `acc` holds the atom being read, backwards. A `;` starts a comment (30_encoding R42). -/
def tokens : List Char → List Char → List Token
  | acc, [] => flushAtom acc []
  | acc, c :: cs =>
    if c = ';' then flushAtom acc []
    else if c = ',' then flushAtom acc (.comma :: tokens [] cs)
    else if isBlank c then flushAtom acc (tokens [] cs)
    else tokens (c :: acc) cs

/-- The value of a digit in a base up to 16. DESIGN CHOICE: a hexadecimal digit may be a capital or a small letter, A to F or
a to f; 30_encoding R42 says only that numbers are decimal or `0x` hexadecimal (log 15). -/
def digitValue (base : Nat) (c : Char) : Option Nat :=
  let n := c.toNat
  let d :=
    if 48 ≤ n ∧ n ≤ 57 then n - 48
    else if 65 ≤ n ∧ n ≤ 70 then n - 55
    else if 97 ≤ n ∧ n ≤ 102 then n - 87
    else 16
  if d < base then some d else none

/-- A row of digits after the value read so far. -/
def digits (base : Nat) : Nat → List Char → Option Nat
  | v, [] => some v
  | v, c :: cs =>
    match digitValue base c with
    | some d => digits base (v * base + d) cs
    | none => none

/-- "Numbers are decimal or `0x` hexadecimal" (30_encoding R42). -/
def number : List Char → Option Nat
  | [] => none
  | '0' :: 'x' :: c :: cs => digits 16 0 (c :: cs)
  | c :: cs => digits 10 0 (c :: cs)

/-- The pad operand: COMPAT and BMP are accepted as 0 and 1 (30_encoding R42). -/
def padNumber (cs : List Char) : Option Nat :=
  if cs = ['C', 'O', 'M', 'P', 'A', 'T'] then some 0
  else if cs = ['B', 'M', 'P'] then some 1
  else number cs

/-- A line of one atom (30_encoding R42). -/
def lineOfName (m : List Char) : Option AsmLine :=
  if m = ['N', 'O', 'P'] then some .nop
  else if m = ['E', 'N', 'D'] then some .endStream
  else if m = ['D', 'E', 'C', 'O', 'D', 'E', '_', 'H', 'E', 'A', 'D', 'E', 'R'] then some .decodeHeader
  else if m = ['C', 'O', 'N', 'V', 'E', 'R', 'T'] then some .convert
  else if m = ['R', 'E', 'S', 'E', 'T'] then some .reset
  else none

/-- A line of a name and one operand (30_encoding R42, R43). -/
def lineOfOne (m a : List Char) : Option AsmLine :=
  if m = ['C', 'O', 'N', 'F', 'I', 'G'] then (number a).map .configDepth
  else if m = ['.', 'w', 'o', 'r', 'd'] then (number a).map .word
  else none

/-- A line of a name and three operands (30_encoding R42). -/
def lineOfThree (m a b c : List Char) : Option AsmLine :=
  if m = ['C', 'O', 'N', 'F', 'I', 'G'] then
    match number a, number b, padNumber c with
    | some x, some y, some z => some (.config x y z)
    | _, _, _ => none
  else if m = ['P', 'U', 'S', 'H'] then
    match number a, number b, number c with
    | some x, some y, some z => some (.push x y z)
    | _, _, _ => none
  else none

/-- The line a row of tokens stands for. -/
def lineOfTokens : List Token → Option AsmLine
  | [.atom m] => lineOfName m
  | [.atom m, .atom a] => lineOfOne m a
  | [.atom m, .atom a, .comma, .atom b, .comma, .atom c] => lineOfThree m a b c
  | _ => none

/-- The lines of a text; `acc` holds the line being read, backwards. -/
def textLines : List Char → List Char → List (List Char)
  | acc, [] => [acc.reverse]
  | acc, c :: cs => if c = '\n' then acc.reverse :: textLines [] cs else textLines (c :: acc) cs

/-- The lines of a program, one command per line; a line with no token is skipped (30_encoding R42; log 15). -/
def parseLines : List (List Char) → Option (List AsmLine)
  | [] => some []
  | l :: ls =>
    match tokens [] l with
    | [] => parseLines ls
    | t :: ts =>
      match lineOfTokens (t :: ts), parseLines ls with
      | some x, some xs => some (x :: xs)
      | _, _ => none

/-- The words of a program's text, none where a line does not read or an operand is out of range (30_encoding R42). -/
def assembleText (text : List Char) : Option (List Word) :=
  match parseLines (textLines [] text) with
  | some ls => assembleProgram ls
  | none => none

end Sys2Proof.Machine
end

