-- ==== Sys2Proof/Safety.lean ====
section
/-!
DEFINITION. What holds of every state the block can be in, in the terms statements use: the register invariant `Inv`, the
stream-count invariant `CountsAgree`, and runs of host steps.
-/
namespace Sys2Proof.Machine

/-- The codes the block raises: 6 and 7 and those above 10 are never held (60_exceptions R73). -/
def raisedCodes : List (BitVec 8) := [1, 2, 3, 4, 5, 8, 9, 10]

/-- What the rules promise of the registers between commands. -/
structure State.Inv (s : State) : Prop where
  /-- ERRCODE and ERRINFO hold 0 when STATE is not ERROR (10_state R11, R12). -/
  noError : s.state ≠ .error → s.errcode = 0 ∧ s.errinfo = 0
  /-- In ERROR the code is one the block raises (60_exceptions R73). -/
  errorCode : s.state = .error → s.errcode ∈ raisedCodes
  /-- PHASE is 0 at 8, 16 and 24 bpp, and 0 in IDLE (10_state R10). -/
  phaseOpen : s.phase = true → s.ctrl.bpp = .bpp12 ∧ s.state ≠ .idle
  /-- HOLD is 0 while PHASE is 0 (10_state R17). -/
  holdClear : s.phase = false → s.hold = 0
  /-- The bank is zero when HDR_VALID is 0 (41_bmp_decoder R54). -/
  bankClear : s.hdrValid = false → s.hdr = Header.zero
  /-- A valid bank holds a header that passed the four checks (41_bmp_decoder R53, R54). -/
  bankChecked : s.hdrValid = true → headerFailure s.hdr = none
  /-- In a build without the decoder the bank reads 0 (10_state R16). -/
  bankAbsent : s.params.hasBmpDecoder = false → s.hdrValid = false
  /-- The memory is in its canonical form, within IN's addresses. -/
  memory : Memory.wf s.inMem = true

/-- While a stream is open, PIXCNT and BYTECNT are the pixels packed and bytes emitted since it began, modulo 2^32, and PHASE
says whether a 12 bpp pair is open (10_state R10, R13, R14). -/
def State.CountsAgree (s : State) : Prop :=
  s.state = .stream →
    ∃ n : Nat, s.pixcnt = BitVec.ofNat 32 n ∧ s.bytecnt = BitVec.ofNat 32 (outLen s.ctrl.bpp n) ∧
      s.phase = (decide (s.ctrl.bpp = .bpp12) && decide (n % 2 = 1))

/-- The command that takes `s` to `t` starts PIXCNT and BYTECNT afresh: the PUSH that leaves IDLE, or a CONVERT once its checks
pass (10_state R13, R14). -/
abbrev StartsCounts (i : Instr) (s t : State) : Prop :=
  s.state = .idle ∧ (i.op = .push ∨ (i = .convert ∧ t.state ≠ .error))

/-- The state an answer carries, if it is a next state. -/
def nextOf : Result → Option State
  | .next s => some s
  | .fault _ => none
  | .refused _ => none

/-- An answer with `f` applied to the state it carries. -/
def mapNext (f : State → State) : Result → Result
  | .next s => .next (f s)
  | .fault r => .fault r
  | .refused r => .refused r

/-- A run of commands, one after another, stopping at the first fault or refusal. -/
def runCommands : List Instr → State → Result
  | [], s => .next s
  | i :: is, s =>
    match exec i s with
    | .next t => runCommands is t
    | .fault r => .fault r
    | .refused r => .refused r

/-- A run of host steps, stopping at the first fault or refusal. -/
def runHost : List HostStep → State → Result
  | [], s => .next s
  | h :: hs, s =>
    match s.hostStep h with
    | .next t => runHost hs t
    | .fault r => .fault r
    | .refused r => .refused r

/-! ## What an image in IN says, read from the memory alone -/

/-- The little-endian number of `k` bytes at address `a` (20_memory R24). -/
def leNat (m : Memory) (a : Nat) : Nat → Nat
  | 0 => 0
  | k + 1 => (Memory.read m a).toNat + 256 * leNat m (a + 1) k

/-- The memory holds the header `h` at the file offsets of 10_state R16, each field little-endian and unsigned. -/
abbrev HeaderAt (m : Memory) (h : Header) : Prop :=
  h.ident.toNat = leNat m 0x00 2 ∧ h.fileSize.toNat = leNat m 0x02 4 ∧ h.dataOffset.toNat = leNat m 0x0A 4 ∧
  h.headerSize.toNat = leNat m 0x0E 4 ∧ h.width.toNat = leNat m 0x12 4 ∧ h.height.toNat = leNat m 0x16 4 ∧
  h.planes.toNat = leNat m 0x1A 2 ∧ h.bpp.toNat = leNat m 0x1C 2 ∧ h.compression.toNat = leNat m 0x1E 4 ∧
  h.dataSize.toNat = leNat m 0x22 4 ∧ h.hres.toNat = leNat m 0x26 4 ∧ h.vres.toNat = leNat m 0x2A 4 ∧
  h.colors.toNat = leNat m 0x2E 4 ∧ h.importantColors.toNat = leNat m 0x32 4

/-- The header passes the four "must equal" checks (41_bmp_decoder R53). -/
abbrev Header.Valid (h : Header) : Prop := h.ident = 0x4D42 ∧ h.planes = 1 ∧ h.bpp = 24 ∧ h.compression = 0

/-- The pixel whose bytes stand at `a` in the order blue, green, red (20_memory R25). -/
def pixelAt (m : Memory) (a : Nat) : Pixel := ⟨Memory.read m (a + 2), Memory.read m (a + 1), Memory.read m a⟩

/-! ## Host steps inside a stream -/

/-- The pixels a host step pushes, for the steps that 42_packer R72 lets stand between the pushes of a stream: PUSH, NOP and
DECODE_HEADER words, register reads, IN_LEN writes and drains; `none` for any other step. -/
def HostStep.streamPixels : HostStep → Option (List Pixel)
  | .write size offset v =>
    if size = 4 ∧ offset = 0x00 then
      match decode ⟨true⟩ v with
      | .ok (.push r g b) => some [⟨r, g, b⟩]
      | .ok .nop => some []
      | .ok .decodeHeader => some []
      | .ok (.config _ _ _) => none
      | .ok .endStream => none
      | .ok .convert => none
      | .ok (.reset _) => none
      | .error _ => none
    else if size = 4 ∧ offset = 0x1C then some []
    else none
  | .writeCmdBytes _ _ _ _ => none
  | .read _ _ => some []
  | .setIn _ _ => none
  | .drain _ => some []
  | .hardwareReset => none

/-- The pixels a list of such steps pushes, in order. -/
def streamPixels : List HostStep → Option (List Pixel)
  | [] => some []
  | h :: hs =>
    match h.streamPixels, streamPixels hs with
    | some ps, some qs => some (ps ++ qs)
    | _, _ => none

end Sys2Proof.Machine
end

