-- ==== Sys2Proof/Certificates/Slice0/Obligations.lean ====
section
/-!
DEFINITION. The statements for the provers. Each docstring names the rules of spec/ it formalises.
-/
open Sys2Proof Sys2Proof.Machine

/-! ## Encoding -/

/-- 30_encoding R37, R38: the word of every command a build has decodes to that command, with every operand at every value;
on a byte-wide bus its four bytes decode to it and leave the rest (20_memory R28). -/
def Obligations.DecodeOfEncode : Prop :=
  ∀ (p : Params) (i : Instr) (rest : List Byte), i.wellFormed p = true →
    decode p (encode i) = .ok i ∧ decodeBytes p (bytesOfWord (encode i) ++ rest) = .ok (i, rest)

/-- 30_encoding R37, R38: every word that decodes is the word of the command it decodes to, and the build has that command. -/
def Obligations.EncodeOfDecode : Prop :=
  ∀ (p : Params) (w : Word) (i : Instr), decode p w = .ok i → encode i = w ∧ i.wellFormed p = true

/-- 30_encoding R38: the opcode map; a word encodes a row's mnemonic when (w & mask) = match, and matches at most one row. -/
def Obligations.OpcodeMapUnambiguous : Prop :=
  (Op.all.map fun o => (opField o.pattern, o.pattern, o.mask)) =
    [(0x0#4, 0x00000000#32, 0xFFFFFFFF#32), (0x1#4, 0x10000000#32, 0xFFFFFC00#32), (0x2#4, 0x20000000#32, 0xFF000000#32),
     (0x3#4, 0x30000000#32, 0xFFFFFFFF#32), (0x4#4, 0x40000000#32, 0xFFFFFFFF#32), (0x5#4, 0x50000000#32, 0xFFFFFFFF#32),
     (0xF#4, 0xF0000000#32, 0xF0000000#32)] ∧
  (∀ (w : Word) (o o' : Op), w &&& o.mask = o.pattern → w &&& o'.mask = o'.pattern → o = o') ∧
  (∀ (w : Word) (i : Instr), decode ⟨true⟩ w = .ok i ↔ ∃ o : Op, w &&& o.mask = o.pattern ∧ i = o.fields w)

/-- 30_encoding R39: a word is illegal in exactly the cases (a), (b) and (c); outside ERROR it raises IllegalCommand with
ERRINFO = w and nothing else happens, in ERROR it is ignored. -/
def Obligations.IllegalWordsExactly : Prop :=
  (∀ (p : Params) (w : Word), (∃ e, decode p w = .error e) ↔
    ((6 ≤ (opField w).toNat ∧ (opField w).toNat ≤ 14) ∨
     ((opField w).toNat ≤ 5 ∧ ∃ o : Op, opField o.pattern = opField w ∧ w &&& o.mask ≠ o.pattern) ∨
     (p.hasBmpDecoder = false ∧ (opField w = 4 ∨ opField w = 5)))) ∧
  (∀ (s : State) (w : Word) (e : Illegal), decode s.params w = .error e →
    (s.state ≠ .error → s.execute w = .next { s with errcode := 9, errinfo := w, state := .error }) ∧
    (s.state = .error → s.execute w = .next s))

/-- 30_encoding R40: every word with OP = 0xF is a RESET in every build, and its bits 27:0 play no part. -/
def Obligations.ResetWordsNeverIllegal : Prop :=
  ∀ (p : Params) (w : Word), opField w = 0xF →
    (∃ ignored, decode p w = .ok (.reset ignored)) ∧ ∀ s : State, s.execute w = s.execute 0xF0000000

/-- 30_encoding R41: in a build without the decoder every word with OP 4 or 5 is an illegal command, whatever its low bits
hold; executing it outside ERROR raises IllegalCommand with the word. -/
def Obligations.DecoderWordsIllegalWhenAbsent : Prop :=
  ∀ (s : State) (w : Word), s.params.hasBmpDecoder = false → opField w = 4 ∨ opField w = 5 →
    decode s.params w = .error .decoderAbsent ∧
    (s.state ≠ .error → s.execute w = .next { s with errcode := 9, errinfo := w, state := .error })

/-- 30_encoding R44: the encoding examples, each word against the command it stands for, and each line against its word. -/
def Obligations.EncodingExamples : Prop :=
  decode ⟨true⟩ 0x00000000 = .ok .nop ∧
  decode ⟨true⟩ 0x10000008 = .ok (.config 8 false false) ∧
  decode ⟨true⟩ 0x1000000C = .ok (.config 12 false false) ∧
  decode ⟨true⟩ 0x10000010 = .ok (.config 16 false false) ∧
  decode ⟨true⟩ 0x10000018 = .ok (.config 24 false false) ∧
  decode ⟨true⟩ 0x10000318 = .ok (.config 24 true true) ∧
  decode ⟨true⟩ 0x1000000F = .ok (.config 15 false false) ∧
  decode ⟨true⟩ 0x20DEADBE = .ok (.push 0xDE 0xAD 0xBE) ∧
  decode ⟨true⟩ 0x30000000 = .ok .endStream ∧
  decode ⟨true⟩ 0x40000000 = .ok .decodeHeader ∧
  decode ⟨true⟩ 0x50000000 = .ok .convert ∧
  decode ⟨true⟩ 0xF0000000 = .ok (.reset 0) ∧
  decode ⟨true⟩ 0x21000000 = .error .reservedBit ∧
  decode ⟨true⟩ 0x60000000 = .error .reservedOpcode ∧
  decode ⟨true⟩ 0xF1234567 = .ok (.reset 0x1234567) ∧
  [AsmLine.nop, .configDepth 8, .configDepth 12, .configDepth 16, .configDepth 24, .config 24 1 1, .configDepth 15,
    .push 0xDE 0xAD 0xBE, .endStream, .decodeHeader, .convert, .reset, .word 0x21000000, .word 0x60000000,
    .word 0xF1234567].map assemble =
  [some 0x00000000, some 0x10000008, some 0x1000000C, some 0x10000010, some 0x10000018, some 0x10000318, some 0x1000000F,
    some 0x20DEADBE, some 0x30000000, some 0x40000000, some 0x50000000, some 0xF0000000, some 0x21000000, some 0x60000000,
    some 0xF1234567] ∧
  (∀ s : State, s.state = .idle →
    s.execute 0x1000000F = .next { s with errcode := 8, errinfo := 15, state := .error })

/-- 30_encoding R42: the assembler writes an operand into its field and refuses one outside its range; a raw word is any
32-bit value. -/
def Obligations.AssembledLinesDecode : Prop :=
  (∀ r g b : Nat, assemble (.push r g b) = none ↔ ¬(r ≤ 255 ∧ g ≤ 255 ∧ b ≤ 255)) ∧
  (∀ (r g b : Nat) (w : Word), assemble (.push r g b) = some w →
    ∃ x y z : Byte, decode ⟨true⟩ w = .ok (.push x y z) ∧ x.toNat = r ∧ y.toNat = g ∧ z.toNat = b) ∧
  (∀ n f q : Nat, assemble (.config n f q) = none ↔ ¬(n ≤ 255 ∧ f ≤ 1 ∧ q ≤ 1)) ∧
  (∀ (n f q : Nat) (w : Word), assemble (.config n f q) = some w →
    ∃ (x : Byte) (y z : Bool), decode ⟨true⟩ w = .ok (.config x y z) ∧ x.toNat = n ∧ y.toNat = f ∧ z.toNat = q) ∧
  (∀ u : Nat, assemble (.word u) = if u < 2 ^ 32 then some (BitVec.ofNat 32 u) else none)

/-- 30_encoding R43: `CONFIG <bpp>` means `CONFIG <bpp>, 0, 0`, and `RESET` is written as 0xF0000000. -/
def Obligations.PseudoInstruction : Prop :=
  (∀ n : Nat, assemble (.configDepth n) = assemble (.config n 0 0)) ∧ assemble .reset = some 0xF0000000

/-! ## The step, the register port and the host -/

/-- 40_control R45: when the host's next step writes a word to CMD and the word decodes to a command, the step is that
command's meaning on the state with the host step taken off; the same for a word that arrives as four bytes on a byte-wide
bus (20_memory R28), and for the word that `withFetchWord` places. The list of host steps is the model's own (log 3), and so
is that the four bytes are one host step (log 14). -/
def Obligations.StepRunsDecodedCommand : Prop :=
  (∀ (s : State) (w : Word) (rest : List HostStep) (i : Instr), s.host = .write 4 0x00 w :: rest →
    decode s.params w = .ok i → i.wellFormed s.params = true → step s = exec i { s with host := rest }) ∧
  (∀ (s : State) (b0 b1 b2 b3 : Byte) (rest : List HostStep) (i : Instr), s.host = .writeCmdBytes b0 b1 b2 b3 :: rest →
    decodeBytes s.params [b0, b1, b2, b3] = .ok (i, []) → step s = exec i { s with host := rest }) ∧
  (∀ (s : State) (nbits w : Nat) (i : Instr), decode s.params (BitVec.ofNat 32 w) = .ok i →
    step (s.withFetchWord nbits w) = exec i s)

/-- 20_memory R28 (its last sentence): a command word on a byte-wide bus is assembled little-endian, so its four bytes, lowest
offset first, do what the word does. -/
def Obligations.ByteBusIsLittleEndian : Prop :=
  ∀ (s : State) (b0 b1 b2 b3 : Byte) (w : Word) (rest : List HostStep), s.host = .writeCmdBytes b0 b1 b2 b3 :: rest →
    w.toNat = b0.toNat + 256 * b1.toNat + 65536 * b2.toNat + 16777216 * b3.toNat →
    step s = step { s with host := .write 4 0x00 w :: rest }

/-- 10_state R19: what each access to the register port does; `readData` is where the model keeps what a read returned
(log 4). -/
def Obligations.RegisterPortAccesses : Prop :=
  (∀ (s : State) (size offset : Nat) (v : Word) (rest : List HostStep), s.host = .write size offset v :: rest →
    step s =
      if size ≠ 4 ∨ offset % 4 ≠ 0 ∨ 0x100 ≤ offset then .refused .portAccess
      else if offset = 0x00 then State.execute { s with host := rest } v
      else if offset = 0x1C then .next { s with host := rest, inLen := v }
      else .next { s with host := rest }) ∧
  (∀ (s : State) (size offset : Nat) (rest : List HostStep), s.host = .read size offset :: rest →
    step s =
      if size ≠ 4 ∨ offset % 4 ≠ 0 ∨ 0x100 ≤ offset then .refused .portAccess
      else .next { s with host := rest, readData := s.readData ++ [s.regRead offset] }) ∧
  (∀ (s : State) (offset : Nat), offset = 0x00 ∨ 0x58 ≤ offset → s.regRead offset = 0)

/-- 10_state R9 to R16, R18: what each register of the map reads as; CTRL, STATUS and ERRCODE by their fields, the reserved
bits 0. -/
def Obligations.RegisterReadValues : Prop :=
  ∀ s : State,
    (s.regRead 0x04).toNat =
      (match s.ctrl.bpp with | .bpp8 => 8 | .bpp12 => 12 | .bpp16 => 16 | .bpp24 => 24) + 256 * s.ctrl.flip.toNat +
        512 * (match s.ctrl.padMode with | .compat => 0 | .bmp => 1) ∧
    (s.regRead 0x08).toNat =
      (match s.state with | .idle => 0 | .stream => 1 | .error => 2) + 4 * s.phase.toNat + 8 * s.hdrValid.toNat +
        16 * s.params.hasBmpDecoder.toNat ∧
    (s.regRead 0x0C).toNat = s.errcode.toNat ∧
    s.regRead 0x10 = s.errinfo ∧ s.regRead 0x14 = s.pixcnt ∧ s.regRead 0x18 = s.bytecnt ∧ s.regRead 0x1C = s.inLen ∧
    [0x20, 0x24, 0x28, 0x2C, 0x30, 0x34, 0x38, 0x3C, 0x40, 0x44, 0x48, 0x4C, 0x50, 0x54].map s.regRead =
      [s.hdr.ident, s.hdr.fileSize, s.hdr.dataOffset, s.hdr.headerSize, s.hdr.width, s.hdr.height, s.hdr.planes, s.hdr.bpp,
        s.hdr.compression, s.hdr.dataSize, s.hdr.hres, s.hdr.vres, s.hdr.colors, s.hdr.importantColors]

/-- 40_control R50: a write of IN_LEN sets it to the written value in every state and changes no other register; in particular
the header bank and HDR_VALID stay. -/
def Obligations.InLenWrite : Prop :=
  ∀ (s : State) (v : Word) (rest : List HostStep), s.host = .write 4 0x1C v :: rest →
    step s = .next { s with host := rest, inLen := v }

/-- 20_memory R29: a drain of k bytes removes the first k bytes of OUT and hands them to the host in order. That a drain of
more bytes than OUT holds is refused is the model's choice (log 6), as is the field that records what the host got (log 4). -/
def Obligations.DrainTakesOldestBytes : Prop :=
  ∀ (s : State) (k : Nat) (rest : List HostStep), s.host = .drain k :: rest →
    (k ≤ s.out.length → ∃ taken left : List Byte, taken.length = k ∧ s.out = taken ++ left ∧
      step s = .next { s with host := rest, out := left, drained := s.drained ++ taken }) ∧
    (s.out.length < k → step s = .refused .drainPastEnd)

/-- 20_memory R22: the host changes a byte of IN; every other byte reads as before, nothing else changes, and the memory stays
in canonical form. That an address IN does not have faults is the model's choice (log 7). -/
def Obligations.HostChangesOneByte : Prop :=
  ∀ (s : State) (a : Nat) (b : Byte) (rest : List HostStep), s.host = .setIn a b :: rest → Memory.wf s.inMem = true →
    (a < 2 ^ 32 - 1 → ∃ m : Memory, step s = .next { s with host := rest, inMem := m } ∧ Memory.wf m = true ∧
      ∀ x, Memory.read m x = if x = a then b else Memory.read s.inMem x) ∧
    (2 ^ 32 - 1 ≤ a → step s = .fault .noSuchInAddress)

/-- 20_memory R22: the block never writes IN; only the host's own change does. The build parameter never changes. -/
def Obligations.OnlyHostChangesIn : Prop :=
  ∀ s t : State, step s = .next t →
    t.params = s.params ∧ ((∀ a b rest, s.host ≠ .setIn a b :: rest) → ∀ a, Memory.read t.inMem a = Memory.read s.inMem a)

/-- 10_state R15, 20_memory R22: no command changes IN, IN_LEN (RESET keeps it), the build parameter, or what belongs to the
host. -/
def Obligations.CommandsLeaveHostsOwn : Prop :=
  ∀ (i : Instr) (s t : State), exec i s = .next t →
    t.inLen = s.inLen ∧ t.params = s.params ∧ t.host = s.host ∧ t.readData = s.readData ∧ t.drained = s.drained ∧
    ∀ a, Memory.read t.inMem a = Memory.read s.inMem a

/-- 70_reset_and_hazards R83: the block waits for a command write. That the machine's step then leaves the state as it is, is
the model's choice (log 3). -/
def Obligations.WaitsForHost : Prop := ∀ s : State, s.host = [] → step s = .next s

/-- What can stop a step is only a host step outside the spec's interface (logs 5, 6, 7): a bad port access, a drain past the
end, a change of IN at an address it does not have. -/
def Obligations.StepStopsOnlyOnHostMisuse : Prop :=
  ∀ s : State, (∃ t, step s = .next t) ∨
    (step s = .refused .portAccess ∧ ∃ size offset rest,
      (size ≠ 4 ∨ offset % 4 ≠ 0 ∨ 0x100 ≤ offset) ∧
      (s.host = .read size offset :: rest ∨ ∃ v, s.host = .write size offset v :: rest)) ∨
    (step s = .refused .drainPastEnd ∧ ∃ k rest, s.out.length < k ∧ s.host = .drain k :: rest) ∨
    (step s = .fault .noSuchInAddress ∧ ∃ a b rest, 2 ^ 32 - 1 ≤ a ∧ s.host = .setIn a b :: rest)

/-! ## Control commands -/

/-- 40_control R46: NOP is the word 0 and writes nothing, in every state; a word with OP 0 and any other bit set is no NOP but
raises IllegalCommand outside ERROR. -/
def Obligations.NopDoesNothing : Prop :=
  (∀ (p : Params) (w : Word), decode p w = .ok .nop ↔ w = 0) ∧
  (∀ s : State, exec .nop s = .next s) ∧
  (∀ (s : State) (w : Word), opField w = 0 → w ≠ 0 → s.state ≠ .error →
    s.execute w = .next { s with errcode := 9, errinfo := w, state := .error })

/-- 40_control R47: the words and operands of CONFIG; it sets CTRL in IDLE for a depth that has a packer; SequenceError in
STREAM comes first; a depth with no packer raises UnsupportedOutputBpp; on either error CTRL keeps its value. -/
def Obligations.ConfigSetsOptions : Prop :=
  (∀ (p : Params) (w : Word) (bpp : Byte) (flip pad : Bool), decode p w = .ok (.config bpp flip pad) ↔
    w &&& 0xFFFFFC00#32 = 0x10000000#32 ∧ bpp = w.extractLsb' 0 8 ∧ flip = w.getLsbD 8 ∧ pad = w.getLsbD 9) ∧
  ∀ (s : State) (bpp : Byte) (flip pad : Bool),
    (s.state = .stream →
      exec (.config bpp flip pad) s =
        .next { s with errcode := 10, errinfo := encode (.config bpp flip pad), state := .error }) ∧
    (s.state = .idle → bpp ≠ 8 → bpp ≠ 12 → bpp ≠ 16 → bpp ≠ 24 →
      exec (.config bpp flip pad) s = .next { s with errcode := 8, errinfo := bpp.setWidth 32, state := .error }) ∧
    (s.state = .idle → ∀ d : Depth,
      (bpp = 8 ∧ d = .bpp8) ∨ (bpp = 12 ∧ d = .bpp12) ∨ (bpp = 16 ∧ d = .bpp16) ∨ (bpp = 24 ∧ d = .bpp24) →
      exec (.config bpp flip pad) s = .next { s with ctrl := ⟨d, flip, if pad then .bmp else .compat⟩ })

/-- 40_control R48: END is the word 0x30000000, and a reserved bit makes it illegal; it closes an open stream, clears PHASE and
HOLD, keeps the counters and emits nothing; in IDLE it does nothing; two ENDs act like one. -/
def Obligations.EndClosesStream : Prop :=
  (∀ (p : Params) (w : Word), decode p w = .ok .endStream ↔ w = 0x30000000) ∧
  (∀ (s : State) (w : Word), opField w = 3 → w ≠ 0x30000000 → s.state ≠ .error →
    s.execute w = .next { s with errcode := 9, errinfo := w, state := .error }) ∧
  (∀ s : State, s.state = .stream → exec .endStream s = .next { s with phase := false, hold := 0, state := .idle }) ∧
  (∀ s : State, s.state = .idle → exec .endStream s = .next s) ∧
  (∀ s t : State, exec .endStream s = .next t → exec .endStream t = .next t)

/-- 40_control R49: RESET is any word with OP 0xF; in every state it gives every register its reset value except IN_LEN, and
empties OUT; IN is not touched. What belongs to the host stays (log 3). -/
def Obligations.ResetCommand : Prop :=
  (∀ (p : Params) (w : Word), opField w = 0xF ↔ ∃ ignored, decode p w = .ok (.reset ignored)) ∧
  ∀ (ignored : BitVec 28) (s : State), exec (.reset ignored) s = .next
    { State.resetWith s.params with
      inLen := s.inLen, inMem := s.inMem, host := s.host, readData := s.readData, drained := s.drained }

/-- 70_reset_and_hazards R83: the table of reset values, hardware reset as the host's step, RESET as the same table except
IN_LEN, and the wait for the first command write. -/
def Obligations.ResetValues : Prop :=
  (∀ p : Params, (State.resetWith p).regRead 0x04 = 0x0000000C ∧
    (State.resetWith p).regRead 0x08 = (if p.hasBmpDecoder then 0x00000010 else 0x00000000) ∧
    [0x0C, 0x10, 0x14, 0x18, 0x1C, 0x20, 0x24, 0x28, 0x2C, 0x30, 0x34, 0x38, 0x3C, 0x40, 0x44, 0x48, 0x4C, 0x50, 0x54].map
      (State.resetWith p).regRead = List.replicate 19 0 ∧
    (State.resetWith p).hold = 0 ∧ (State.resetWith p).out = [] ∧
    step (State.resetWith p) = .next (State.resetWith p)) ∧
  (∀ (s : State) (rest : List HostStep), s.host = .hardwareReset :: rest → step s = .next
    { State.resetWith s.params with inMem := s.inMem, host := rest, readData := s.readData, drained := s.drained }) ∧
  (∀ (ignored : BitVec 28) (s : State), exec (.reset ignored) s = .next
    { State.resetWith s.params with
      inLen := s.inLen, inMem := s.inMem, host := s.host, readData := s.readData, drained := s.drained })

/-- 70_reset_and_hazards R84: straight after either reset the block takes commands, and the first PUSH opens a stream at
12 bpp. -/
def Obligations.FirstPushAfterReset : Prop :=
  ∀ (s r : State) (x y z : Byte), r = s.hwReset ∨ r = s.cmdReset →
    ∃ t, exec (.push x y z) r = .next t ∧ t.state = .stream ∧ t.ctrl.bpp = .bpp12 ∧ t.phase = true ∧
      t.hold.toNat = z.toNat / 16 ∧ t.out = [(x &&& 0xF0#8) ||| (y >>> 4)] ∧ t.pixcnt = 1 ∧ t.bytecnt = 1

/-! ## The packer -/

/-- 42_packer R64: the formula of Pack8 and the layout RRRGGGBB it gives. -/
def Obligations.PackEightLayout : Prop :=
  ∀ p : Pixel, ∃ v : Byte, pack8 p = [v] ∧
    v = (p.r &&& 0xE0#8) ||| ((p.g >>> 3) &&& 0x1C#8) ||| ((p.b >>> 6) &&& 0x03#8) ∧
    v.toNat = p.r.toNat / 32 * 32 + p.g.toNat / 32 * 4 + p.b.toNat / 64

/-- 42_packer R65, R66: two pixels share three bytes RRRRGGGG BBBBRRRR GGGGBBBB; the tail of an odd sequence is byte1 alone
(90_conflicts C1, log 11). -/
def Obligations.PackTwelveLayout : Prop :=
  ∀ p q : Pixel, ∃ u v w : Byte, pack12Pair p q = [u, v, w] ∧ pack12Tail p = [u] ∧
    u.toNat = p.r.toNat / 16 * 16 + p.g.toNat / 16 ∧ v.toNat = p.b.toNat / 16 * 16 + q.r.toNat / 16 ∧
    w.toNat = q.g.toNat / 16 * 16 + q.b.toNat / 16

/-- 42_packer R67: the literal 16 bpp formula, with the overlap of two green and two blue bits in byte2 joined by or
(90_conflicts C2, log 12). -/
def Obligations.PackSixteenLayout : Prop :=
  ∀ p : Pixel, ∃ u v : Byte, pack16 p = [u, v] ∧ u.toNat = p.r.toNat / 8 * 8 + p.g.toNat / 32 ∧
    v.toNat = (p.g.toNat * 8 % 256) ||| (p.b.toNat / 8 % 32) ∧
    v.getLsbD 7 = p.g.getLsbD 4 ∧ v.getLsbD 6 = p.g.getLsbD 3 ∧ v.getLsbD 5 = p.g.getLsbD 2 ∧
    v.getLsbD 4 = (p.g.getLsbD 1 || p.b.getLsbD 7) ∧ v.getLsbD 3 = (p.g.getLsbD 0 || p.b.getLsbD 6) ∧
    v.getLsbD 2 = p.b.getLsbD 5 ∧ v.getLsbD 1 = p.b.getLsbD 4 ∧ v.getLsbD 0 = p.b.getLsbD 3

/-- 42_packer R68, R69: how a pixel sequence packs at each depth; at 12 bpp pairs are formed from the start, and an odd last
pixel gives a tail. (The default pixel of `getD` is never reached.) -/
def Obligations.PackStreamSequence : Prop :=
  ∀ ps : List Pixel,
    packStream .bpp8 ps = ps.flatMap pack8 ∧ packStream .bpp16 ps = ps.flatMap pack16 ∧
    packStream .bpp24 ps = ps.flatMap (fun p => [p.r, p.g, p.b]) ∧
    packStream .bpp12 ps =
      (List.range (ps.length / 2)).flatMap
        (fun m => pack12Pair (ps.getD (2 * m) ⟨0, 0, 0⟩) (ps.getD (2 * m + 1) ⟨0, 0, 0⟩)) ++
      (if ps.length % 2 = 1 then pack12Tail (ps.getD (ps.length - 1) ⟨0, 0, 0⟩) else [])

/-- 42_packer R70: the length of a packed sequence at each depth. -/
def Obligations.PackStreamLength : Prop :=
  ∀ ps : List Pixel, (packStream .bpp8 ps).length = ps.length ∧
    (packStream .bpp12 ps).length = 3 * (ps.length / 2) + ps.length % 2 ∧
    (packStream .bpp16 ps).length = 2 * ps.length ∧ (packStream .bpp24 ps).length = 3 * ps.length

/-- 42_packer R71: the words and operands of PUSH, its one error, and what it does in IDLE and in STREAM at each depth; `b` is
the state in which the pixel is packed, a new stream's when the block was IDLE. In ERROR it is ignored. -/
def Obligations.PushPacksOnePixel : Prop :=
  (∀ (p : Params) (w : Word) (x y z : Byte), decode p w = .ok (.push x y z) ↔
    w &&& 0xFF000000#32 = 0x20000000#32 ∧ x = w.extractLsb' 16 8 ∧ y = w.extractLsb' 8 8 ∧ z = w.extractLsb' 0 8) ∧
  (∀ (s : State) (w : Word), opField w = 2 → w.extractLsb' 24 4 ≠ 0 → s.state ≠ .error →
    s.execute w = .next { s with errcode := 9, errinfo := w, state := .error }) ∧
  (∀ (s : State) (x y z : Byte), s.state = .error → exec (.push x y z) s = .next s) ∧
  ∀ (s b : State) (x y z : Byte), s.state ≠ .error →
    (s.state = .idle → b = { s with pixcnt := 0, bytecnt := 0, phase := false, hold := 0, state := .stream }) →
    (s.state = .stream → b = s) →
    (s.ctrl.bpp = .bpp8 → exec (.push x y z) s = .next
      { b with out := b.out ++ [(x &&& 0xE0#8) ||| ((y >>> 3) &&& 0x1C#8) ||| ((z >>> 6) &&& 0x03#8)],
               bytecnt := b.bytecnt + 1, pixcnt := b.pixcnt + 1 }) ∧
    (s.ctrl.bpp = .bpp16 → exec (.push x y z) s = .next
      { b with out := b.out ++ [(x &&& 0xF8#8) ||| (y >>> 5), (y <<< 3) ||| ((z >>> 3) &&& 0x1F#8)],
               bytecnt := b.bytecnt + 2, pixcnt := b.pixcnt + 1 }) ∧
    (s.ctrl.bpp = .bpp24 → exec (.push x y z) s = .next
      { b with out := b.out ++ [x, y, z], bytecnt := b.bytecnt + 3, pixcnt := b.pixcnt + 1 }) ∧
    (s.ctrl.bpp = .bpp12 → b.phase = false → exec (.push x y z) s = .next
      { b with out := b.out ++ [(x &&& 0xF0#8) ||| (y >>> 4)], bytecnt := b.bytecnt + 1, pixcnt := b.pixcnt + 1,
               hold := z.extractLsb' 4 4, phase := true }) ∧
    (s.ctrl.bpp = .bpp12 → b.phase = true → exec (.push x y z) s = .next
      { b with out := b.out ++ [(b.hold.setWidth 8 <<< 4) ||| (x >>> 4), (y &&& 0xF0#8) ||| (z >>> 4)],
               bytecnt := b.bytecnt + 2, pixcnt := b.pixcnt + 1, hold := 0, phase := false })

/-- 42_packer R72: from IDLE, a PUSH of each pixel of a non-empty sequence and then END appends exactly PackStream to OUT and
leaves the counters of the whole sequence. -/
def Obligations.PushStreamPacksSequence : Prop :=
  ∀ (s : State) (ps : List Pixel), s.state = .idle → ps ≠ [] →
    runCommands (ps.map (fun p => Instr.push p.r p.g p.b) ++ [.endStream]) s = .next
      { s with
        out := s.out ++ packStream s.ctrl.bpp ps
        pixcnt := BitVec.ofNat 32 ps.length
        bytecnt := BitVec.ofNat 32 (outLen s.ctrl.bpp ps.length)
        phase := false
        hold := 0 }

/-- 42_packer R72: the same when NOPs, DECODE_HEADERs that succeed, register reads, IN_LEN writes and drains come between
the pushes. What the host has drained and what is still in OUT, together, have grown by PackStream. -/
def Obligations.InterleavedStreamPacksSequence : Prop :=
  ∀ (s t : State) (hs : List HostStep) (ps : List Pixel), s.state = .idle → streamPixels hs = some ps → ps ≠ [] →
    runHost hs s = .next t → t.state ≠ .error →
    ∃ u, exec .endStream t = .next u ∧ u.state = .idle ∧ u.phase = false ∧ u.hold = 0 ∧
      u.drained ++ u.out = s.drained ++ s.out ++ packStream s.ctrl.bpp ps ∧
      u.pixcnt = BitVec.ofNat 32 ps.length ∧ u.bytecnt = BitVec.ofNat 32 (outLen s.ctrl.bpp ps.length)

/-! ## The BMP decoder -/

/-- 41_bmp_decoder R51, R54, R55: a header that lies below IN_LEN and passes the four checks is committed whole, and nothing
else changes, in IDLE and in STREAM. -/
def Obligations.DecodeHeaderCommits : Prop :=
  ∀ (s : State) (h : Header), s.state ≠ .error → s.params.hasBmpDecoder = true → 54 ≤ s.inLen.toNat →
    HeaderAt s.inMem h → h.Valid → exec .decodeHeader s = .next { s with hdr := h, hdrValid := true }

/-- 41_bmp_decoder R53: the four checks run in order, the first failure wins, clears the header bank and reports the offending
value; for DECODE_HEADER in IDLE or STREAM and for CONVERT in IDLE. -/
def Obligations.HeaderChecksInOrder : Prop :=
  ∀ (s : State) (i : Instr) (h : Header), s.state ≠ .error → s.params.hasBmpDecoder = true →
    i = .decodeHeader ∨ (i = .convert ∧ s.state = .idle) → 54 ≤ s.inLen.toNat → HeaderAt s.inMem h →
    (h.ident ≠ 0x4D42 → exec i s = .next
      { s with hdr := Header.zero, hdrValid := false, errcode := 1, errinfo := h.ident, state := .error }) ∧
    (h.ident = 0x4D42 → h.planes ≠ 1 → exec i s = .next
      { s with hdr := Header.zero, hdrValid := false, errcode := 2, errinfo := h.planes, state := .error }) ∧
    (h.ident = 0x4D42 → h.planes = 1 → h.bpp ≠ 24 → exec i s = .next
      { s with hdr := Header.zero, hdrValid := false, errcode := 3, errinfo := h.bpp, state := .error }) ∧
    (h.ident = 0x4D42 → h.planes = 1 → h.bpp = 24 → h.compression ≠ 0 → exec i s = .next
      { s with hdr := Header.zero, hdrValid := false, errcode := 4, errinfo := h.compression, state := .error })

/-- 41_bmp_decoder R52: with fewer than 54 bytes in IN the header decode clears the bank and raises TruncatedData(54), whatever
the bytes are. The error kind is the spec's own choice and not the source's (92_eei_decisions D17), and
93_implementation_defined I6 says that proofs should not depend on it (log 13, unsafe towards the original tool). -/
def Obligations.ShortFileIsTruncated : Prop :=
  ∀ (s : State) (i : Instr), s.state ≠ .error → s.params.hasBmpDecoder = true →
    i = .decodeHeader ∨ (i = .convert ∧ s.state = .idle) → s.inLen.toNat < 54 →
    exec i s = .next { s with hdr := Header.zero, hdrValid := false, errcode := 5, errinfo := 54, state := .error }

/-- 41_bmp_decoder R56: the two padding formulas, their table, and where they agree. -/
def Obligations.PaddingTable : Prop :=
  ∀ w : Nat, pad .compat w = (3 * w) % 4 ∧ pad .bmp w = (4 - (3 * w) % 4) % 4 ∧
    (w % 4 = 0 → pad .compat w = 0 ∧ pad .bmp w = 0) ∧ (w % 4 = 1 → pad .compat w = 3 ∧ pad .bmp w = 1) ∧
    (w % 4 = 2 → pad .compat w = 2 ∧ pad .bmp w = 2) ∧ (w % 4 = 3 → pad .compat w = 1 ∧ pad .bmp w = 3) ∧
    (pad .compat w = pad .bmp w ↔ w % 4 = 0 ∨ w % 4 = 2)

/-- 41_bmp_decoder R57: the number of pixels, and the number and the address of the pixel in sequence row i and column j, for
both row orders. -/
def Obligations.PixelAddresses : Prop :=
  ∀ (c : Ctrl) (h : Header) (i j : Nat), i < h.height.toNat → j < h.width.toNat →
    pixelCount h = h.width.toNat * h.height.toNat ∧ i * h.width.toNat + j < pixelCount h ∧
    pixAddr c h (i * h.width.toNat + j) =
      h.dataOffset.toNat +
        (if c.flip then h.height.toNat - 1 - i else i) * (3 * h.width.toNat + pad c.padMode h.width.toNat) + 3 * j

/-- 41_bmp_decoder R59: End is the largest address past a pixel, for either row order, and it is reached. -/
def Obligations.PixelRegionEnd : Prop :=
  ∀ (c : Ctrl) (h : Header), 0 < pixelCount h →
    pixelEnd c h = h.dataOffset.toNat + (h.height.toNat - 1) * (3 * h.width.toNat + pad c.padMode h.width.toNat) +
      3 * h.width.toNat ∧
    (∀ k < pixelCount h, pixAddr c h k + 3 ≤ pixelEnd c h) ∧ ∃ k < pixelCount h, pixAddr c h k + 3 = pixelEnd c h

/-- 41_bmp_decoder R62: whenever the truncation check passes there are at most IN_LEN / 3 pixels, so the counters of a CONVERT
never wrap; a width or height of 2^31 or more fails the check unless the product is 0. -/
def Obligations.ImageFitsCounters : Prop :=
  ∀ (s : State) (h : Header),
    (pixelCount h = 0 ∨ pixelEnd s.ctrl h ≤ s.inLen.toNat →
      pixelCount h ≤ s.inLen.toNat / 3 ∧ pixelCount h < 2 ^ 32 ∧ outLen s.ctrl.bpp (pixelCount h) < 2 ^ 32) ∧
    (2 ^ 31 ≤ h.width.toNat ∨ 2 ^ 31 ≤ h.height.toNat → 0 < pixelCount h → s.inLen.toNat < pixelEnd s.ctrl h)

/-- 41_bmp_decoder R57 to R61: a CONVERT in IDLE whose header passes and whose pixel region lies below IN_LEN commits the
header, packs every pixel of the image at CTRL.BPP into OUT, and sets the counters; STATE stays IDLE. -/
def Obligations.ConvertPacksImage : Prop :=
  ∀ (s : State) (h : Header), s.state = .idle → s.params.hasBmpDecoder = true → 54 ≤ s.inLen.toNat →
    HeaderAt s.inMem h → h.Valid → pixelCount h = 0 ∨ pixelEnd s.ctrl h ≤ s.inLen.toNat →
    exec .convert s = .next
      { s with
        hdr := h
        hdrValid := true
        pixcnt := BitVec.ofNat 32 (pixelCount h)
        bytecnt := BitVec.ofNat 32 (outLen s.ctrl.bpp (pixelCount h))
        phase := false
        hold := 0
        out := s.out ++ packStream s.ctrl.bpp
          ((List.range (pixelCount h)).map fun k => pixelAt s.inMem (pixAddr s.ctrl h k)) }

/-- 41_bmp_decoder R59, R61, R54: a CONVERT whose pixel region ends past IN_LEN raises TruncatedData(min(End, 0xFFFFFFFF)),
emits nothing, keeps the counters, and leaves the committed header. -/
def Obligations.ConvertTruncatedPixels : Prop :=
  ∀ (s : State) (h : Header), s.state = .idle → s.params.hasBmpDecoder = true → 54 ≤ s.inLen.toNat →
    HeaderAt s.inMem h → h.Valid → 0 < pixelCount h → s.inLen.toNat < pixelEnd s.ctrl h →
    exec .convert s = .next
      { s with
        hdr := h
        hdrValid := true
        errcode := 5
        errinfo := BitVec.ofNat 32 (min (pixelEnd s.ctrl h) 0xFFFFFFFF)
        state := .error }

/-- 41_bmp_decoder R61, 60_exceptions R76: a CONVERT inside a stream raises SequenceError with its word before it looks at
IN. -/
def Obligations.ConvertInsideStream : Prop :=
  ∀ s : State, s.state = .stream → s.params.hasBmpDecoder = true →
    exec .convert s = .next { s with errcode := 10, errinfo := 0x50000000, state := .error }

/-- 41_bmp_decoder R61, 42_packer R72: a CONVERT that succeeds ends in the state that a PUSH of each loaded pixel in order and
then END would give from the state with the header committed; with no pixel it only clears the counters. -/
def Obligations.ConvertEqualsPushes : Prop :=
  ∀ s t : State, s.state = .idle → exec .convert s = .next t → t.state ≠ .error →
    ∃ ps : List Pixel, ps.length = pixelCount t.hdr ∧
      (∀ k < ps.length, ps[k]? = some (pixelAt s.inMem (pixAddr s.ctrl t.hdr k))) ∧
      (ps ≠ [] → runCommands (ps.map (fun p => Instr.push p.r p.g p.b) ++ [.endStream])
        { s with hdr := t.hdr, hdrValid := true } = .next t) ∧
      (ps = [] → t = { s with hdr := t.hdr, hdrValid := true, pixcnt := 0, bytecnt := 0, phase := false, hold := 0 })

/-! ## Errors -/

/-- 60_exceptions R73: which command raises which code. NOP, PUSH, END and RESET raise none; CONFIG only 8 and 10;
DECODE_HEADER 1 to 5, and 9 without the decoder; CONVERT also 10. -/
def Obligations.CodesRaisedByCommands : Prop :=
  ∀ (i : Instr) (s t : State), s.state ≠ .error → exec i s = .next t → t.state = .error →
    t.errcode.toNat ∈ (match i with
      | .nop => []
      | .config _ _ _ => [8, 10]
      | .push _ _ _ => []
      | .endStream => []
      | .decodeHeader => if s.params.hasBmpDecoder then [1, 2, 3, 4, 5] else [9]
      | .convert => if s.params.hasBmpDecoder then [1, 2, 3, 4, 5, 10] else [9]
      | .reset _ => [])

/-- 60_exceptions R75: the command word that raises an error, legal or not, changes nothing but ERRCODE, ERRINFO and STATE and, for the header
decode, the bank: cleared on a header failure, committed on a pixel-region TruncatedData. -/
def Obligations.ErrorsArePrecise : Prop :=
  ∀ (w : Word) (s t : State), s.state ≠ .error → s.execute w = .next t → t.state = .error →
    t = { s with state := .error, errcode := t.errcode, errinfo := t.errinfo, hdr := t.hdr, hdrValid := t.hdrValid } ∧
    ((t.hdr = s.hdr ∧ t.hdrValid = s.hdrValid) ∨
     ((opField w = 4 ∨ opField w = 5) ∧ t.errcode.toNat ∈ [1, 2, 3, 4, 5] ∧ t.hdr = Header.zero ∧ t.hdrValid = false) ∨
     (opField w = 5 ∧ t.errcode = 5 ∧ t.hdrValid = true ∧ HeaderAt s.inMem t.hdr ∧ t.hdr.Valid))

/-- 60_exceptions R77: in ERROR every command word except a RESET is ignored, legal or not, while reads, IN_LEN writes and
drains still work. -/
def Obligations.ErrorStateIgnoresCommands : Prop :=
  ∀ s : State, s.state = .error →
    (∀ w : Word, opField w ≠ 0xF → s.execute w = .next s) ∧
    (∀ (i : Instr), (∀ x, i ≠ .reset x) → exec i s = .next s) ∧
    (∀ (offset : Nat) (rest : List HostStep), offset % 4 = 0 → offset < 0x100 → s.host = .read 4 offset :: rest →
      step s = .next { s with host := rest, readData := s.readData ++ [s.regRead offset] }) ∧
    (∀ (v : Word) (rest : List HostStep), s.host = .write 4 0x1C v :: rest →
      step s = .next { s with host := rest, inLen := v }) ∧
    (∀ (k : Nat) (rest : List HostStep), k ≤ s.out.length → s.host = .drain k :: rest →
      step s = .next { s with host := rest, out := s.out.drop k, drained := s.drained ++ s.out.take k })

/-- 60_exceptions R78: the only ways out of ERROR are a RESET word written to CMD and hardware reset, and both clear ERRCODE
and ERRINFO and leave the block IDLE. -/
def Obligations.OnlyResetsLeaveError : Prop :=
  ∀ s t : State, s.state = .error → step s = .next t → t.state ≠ .error →
    t.state = .idle ∧ t.errcode = 0 ∧ t.errinfo = 0 ∧
    ∃ h rest, s.host = h :: rest ∧
      (h = .hardwareReset ∨ (∃ w, h = .write 4 0x00 w ∧ opField w = 0xF) ∨
       ∃ b0 b1 b2 b3, h = .writeCmdBytes b0 b1 b2 b3 ∧ b3.toNat / 16 = 15)

/-! ## Frames -/

/-- Frame of NOP, CONFIG and END (40_control R46, R47, R48): what each leaves unchanged in every outcome; they store nothing,
so every byte of IN and all of OUT stay. -/
def Obligations.ControlFrame : Prop :=
  ∀ (i : Instr) (s t : State), (i = .nop ∨ i = .endStream ∨ ∃ n f q, i = .config n f q) → exec i s = .next t →
    t.hdr = s.hdr ∧ t.hdrValid = s.hdrValid ∧ t.pixcnt = s.pixcnt ∧ t.bytecnt = s.bytecnt ∧ t.inLen = s.inLen ∧
    t.out = s.out ∧ t.params = s.params ∧ (∀ a, Memory.read t.inMem a = Memory.read s.inMem a) ∧
    (i = .nop → t = s) ∧ (i = .endStream → t.ctrl = s.ctrl ∧ t.errcode = s.errcode ∧ t.errinfo = s.errinfo) ∧
    (i ≠ .endStream → t.phase = s.phase ∧ t.hold = s.hold) ∧
    (t.state ≠ .error → t.errcode = s.errcode ∧ t.errinfo = s.errinfo)

/-- Frame of PUSH (42_packer R71): it writes STATE, PHASE, HOLD, the two counters and OUT; OUT keeps every byte it had, in
front, and every byte of IN stays. -/
def Obligations.PushFrame : Prop :=
  ∀ (x y z : Byte) (s t : State), exec (.push x y z) s = .next t →
    t.ctrl = s.ctrl ∧ t.hdr = s.hdr ∧ t.hdrValid = s.hdrValid ∧ t.errcode = s.errcode ∧ t.errinfo = s.errinfo ∧
    t.inLen = s.inLen ∧ t.params = s.params ∧ (∃ bs, t.out = s.out ++ bs) ∧
    (∀ a, Memory.read t.inMem a = Memory.read s.inMem a) ∧
    (s.ctrl.bpp ≠ .bpp12 → s.state = .stream → t.phase = s.phase ∧ t.hold = s.hold)

/-- Frame of DECODE_HEADER and CONVERT (41_bmp_decoder R55, R61): CTRL and IN_LEN stay, every byte of IN stays, OUT keeps what
it had in front; DECODE_HEADER also leaves PHASE, HOLD, the counters and OUT, and an open stream open. -/
def Obligations.DecoderFrame : Prop :=
  ∀ (i : Instr) (s t : State), (i = .decodeHeader ∨ i = .convert) → exec i s = .next t →
    t.ctrl = s.ctrl ∧ t.inLen = s.inLen ∧ t.params = s.params ∧ (∃ bs, t.out = s.out ++ bs) ∧
    (∀ a, Memory.read t.inMem a = Memory.read s.inMem a) ∧
    (t.state = .error ∨ (t.state = s.state ∧ t.errcode = s.errcode ∧ t.errinfo = s.errinfo)) ∧
    (i = .decodeHeader → t.phase = s.phase ∧ t.hold = s.hold ∧ t.pixcnt = s.pixcnt ∧ t.bytecnt = s.bytecnt ∧ t.out = s.out)

/-- 10_state R13, R14, 20_memory R29: every byte and pixel a command emits is counted. Unless the command is a RESET, OUT grows
by some bytes, and BYTECNT becomes their number where the command starts the counters afresh (`StartsCounts`: a PUSH that
leaves IDLE, a CONVERT that succeeds), and its old value plus their number everywhere else; PIXCNT goes the same way with
the pixels. -/
def Obligations.EmittedBytesCounted : Prop :=
  ∀ (i : Instr) (s t : State), (∀ x, i ≠ .reset x) → exec i s = .next t →
    ∃ (bs : List Byte) (n : Nat), t.out = s.out ++ bs ∧
      (StartsCounts i s t → t.bytecnt = BitVec.ofNat 32 bs.length ∧ t.pixcnt = BitVec.ofNat 32 n) ∧
      (¬StartsCounts i s t → t.bytecnt = s.bytecnt + BitVec.ofNat 32 bs.length ∧ t.pixcnt = s.pixcnt + BitVec.ofNat 32 n) ∧
      (bs.length = outLen s.ctrl.bpp n ∨ (n = 1 ∧ s.ctrl.bpp = .bpp12 ∧ s.phase = true ∧ s.state = .stream ∧ bs.length = 2))

/-- 41_bmp_decoder R54, 10_state R16: the bank is written all at once: a command leaves it alone, clears all of it, or commits
the whole validated header that IN holds; only DECODE_HEADER, CONVERT and RESET write it. -/
def Obligations.HeaderBankWrittenWhole : Prop :=
  ∀ (i : Instr) (s t : State), exec i s = .next t →
    (t.hdr = s.hdr ∧ t.hdrValid = s.hdrValid) ∨
    ((i = .decodeHeader ∨ i = .convert ∨ ∃ x, i = .reset x) ∧ t.hdr = Header.zero ∧ t.hdrValid = false) ∨
    ((i = .decodeHeader ∨ i = .convert) ∧ HeaderAt s.inMem t.hdr ∧ t.hdr.Valid ∧ t.hdrValid = true)

/-! ## Invariants and whole-machine rules -/

/-- The registers keep what the rules promise of them (`State.Inv`: 10_state R9 to R12, R16, R17, 41_bmp_decoder R54,
60_exceptions R73) at every step of the machine, the host's steps among them. -/
def Obligations.StepKeepsRegisterInvariant : Prop :=
  ∀ s t : State, s.Inv → step s = .next t → t.Inv

/-- 10_state R13, R14, 42_packer R70: every step keeps the counters of an open stream equal to the pixels packed and bytes
emitted since it began, modulo 2^32, and PHASE equal to the parity at 12 bpp. -/
def Obligations.StepKeepsStreamCounts : Prop :=
  ∀ s t : State, s.CountsAgree → step s = .next t → t.CountsAgree

/-- The two invariants hold right after hardware reset, in every build (70_reset_and_hazards R83). -/
def Obligations.ResetMeetsInvariants : Prop :=
  ∀ p : Params, (State.resetWith p).Inv ∧ (State.resetWith p).CountsAgree

/-- 20_memory R23: every rule that reads IN checks its addresses first, so no command ever stops: every command, in every
state, answers a next state. The claim rests on the model's unbounded OUT (log 9, unsafe for it): hardware holds a command
back while its queue is full, so there it assumes a host that drains (70_reset_and_hazards R87, R88,
93_implementation_defined I16). -/
def Obligations.EveryCommandCompletes : Prop :=
  ∀ (i : Instr) (s : State), ∃ t, exec i s = .next t

/-- 20_memory R23, 93_implementation_defined I8: what IN holds at or above IN_LEN has no effect on any command: two states that
differ only there answer the same but for that memory. -/
def Obligations.BytesPastInLenUnread : Prop :=
  ∀ (i : Instr) (s : State) (m : Memory), (∀ a < s.inLen.toNat, Memory.read m a = Memory.read s.inMem a) →
    exec i { s with inMem := m } = mapNext (fun t => { t with inMem := m }) (exec i s)
end

