-- ==== Sys2Proof/Laws/State.lean ====
section
/-!
SUPPORT. One lemma per field per named update of the state: each is true by `rfl`, and no later proof unfolds an update.
-/
namespace Sys2Proof.Machine

/-! ## State.emit (20_memory R29) -/

@[simp] theorem State.emit_params (s : State) (bs : List Byte) : (s.emit bs).params = s.params := rfl
@[simp] theorem State.emit_ctrl (s : State) (bs : List Byte) : (s.emit bs).ctrl = s.ctrl := rfl
@[simp] theorem State.emit_state (s : State) (bs : List Byte) : (s.emit bs).state = s.state := rfl
@[simp] theorem State.emit_phase (s : State) (bs : List Byte) : (s.emit bs).phase = s.phase := rfl
@[simp] theorem State.emit_hdrValid (s : State) (bs : List Byte) : (s.emit bs).hdrValid = s.hdrValid := rfl
@[simp] theorem State.emit_errcode (s : State) (bs : List Byte) : (s.emit bs).errcode = s.errcode := rfl
@[simp] theorem State.emit_errinfo (s : State) (bs : List Byte) : (s.emit bs).errinfo = s.errinfo := rfl
@[simp] theorem State.emit_pixcnt (s : State) (bs : List Byte) : (s.emit bs).pixcnt = s.pixcnt := rfl
@[simp] theorem State.emit_bytecnt (s : State) (bs : List Byte) : (s.emit bs).bytecnt = s.bytecnt + BitVec.ofNat 32 bs.length := rfl
@[simp] theorem State.emit_inLen (s : State) (bs : List Byte) : (s.emit bs).inLen = s.inLen := rfl
@[simp] theorem State.emit_hdr (s : State) (bs : List Byte) : (s.emit bs).hdr = s.hdr := rfl
@[simp] theorem State.emit_hold (s : State) (bs : List Byte) : (s.emit bs).hold = s.hold := rfl
@[simp] theorem State.emit_out (s : State) (bs : List Byte) : (s.emit bs).out = s.out ++ bs := rfl
@[simp] theorem State.emit_inMem (s : State) (bs : List Byte) : (s.emit bs).inMem = s.inMem := rfl
@[simp] theorem State.emit_host (s : State) (bs : List Byte) : (s.emit bs).host = s.host := rfl
@[simp] theorem State.emit_readData (s : State) (bs : List Byte) : (s.emit bs).readData = s.readData := rfl
@[simp] theorem State.emit_drained (s : State) (bs : List Byte) : (s.emit bs).drained = s.drained := rfl

/-! ## State.drainOut (20_memory R29) -/

@[simp] theorem State.drainOut_params (s : State) (k : Nat) : (s.drainOut k).params = s.params := rfl
@[simp] theorem State.drainOut_ctrl (s : State) (k : Nat) : (s.drainOut k).ctrl = s.ctrl := rfl
@[simp] theorem State.drainOut_state (s : State) (k : Nat) : (s.drainOut k).state = s.state := rfl
@[simp] theorem State.drainOut_phase (s : State) (k : Nat) : (s.drainOut k).phase = s.phase := rfl
@[simp] theorem State.drainOut_hdrValid (s : State) (k : Nat) : (s.drainOut k).hdrValid = s.hdrValid := rfl
@[simp] theorem State.drainOut_errcode (s : State) (k : Nat) : (s.drainOut k).errcode = s.errcode := rfl
@[simp] theorem State.drainOut_errinfo (s : State) (k : Nat) : (s.drainOut k).errinfo = s.errinfo := rfl
@[simp] theorem State.drainOut_pixcnt (s : State) (k : Nat) : (s.drainOut k).pixcnt = s.pixcnt := rfl
@[simp] theorem State.drainOut_bytecnt (s : State) (k : Nat) : (s.drainOut k).bytecnt = s.bytecnt := rfl
@[simp] theorem State.drainOut_inLen (s : State) (k : Nat) : (s.drainOut k).inLen = s.inLen := rfl
@[simp] theorem State.drainOut_hdr (s : State) (k : Nat) : (s.drainOut k).hdr = s.hdr := rfl
@[simp] theorem State.drainOut_hold (s : State) (k : Nat) : (s.drainOut k).hold = s.hold := rfl
@[simp] theorem State.drainOut_out (s : State) (k : Nat) : (s.drainOut k).out = s.out.drop k := rfl
@[simp] theorem State.drainOut_inMem (s : State) (k : Nat) : (s.drainOut k).inMem = s.inMem := rfl
@[simp] theorem State.drainOut_host (s : State) (k : Nat) : (s.drainOut k).host = s.host := rfl
@[simp] theorem State.drainOut_readData (s : State) (k : Nat) : (s.drainOut k).readData = s.readData := rfl
@[simp] theorem State.drainOut_drained (s : State) (k : Nat) : (s.drainOut k).drained = s.drained ++ s.out.take k := rfl

/-! ## State.raise (60_exceptions R74) -/

@[simp] theorem State.raise_params (s : State) (e : ErrKind) (info : Word) : (s.raise e info).params = s.params := rfl
@[simp] theorem State.raise_ctrl (s : State) (e : ErrKind) (info : Word) : (s.raise e info).ctrl = s.ctrl := rfl
@[simp] theorem State.raise_state (s : State) (e : ErrKind) (info : Word) : (s.raise e info).state = .error := rfl
@[simp] theorem State.raise_phase (s : State) (e : ErrKind) (info : Word) : (s.raise e info).phase = s.phase := rfl
@[simp] theorem State.raise_hdrValid (s : State) (e : ErrKind) (info : Word) : (s.raise e info).hdrValid = s.hdrValid := rfl
@[simp] theorem State.raise_errcode (s : State) (e : ErrKind) (info : Word) : (s.raise e info).errcode = e.code := rfl
@[simp] theorem State.raise_errinfo (s : State) (e : ErrKind) (info : Word) : (s.raise e info).errinfo = info := rfl
@[simp] theorem State.raise_pixcnt (s : State) (e : ErrKind) (info : Word) : (s.raise e info).pixcnt = s.pixcnt := rfl
@[simp] theorem State.raise_bytecnt (s : State) (e : ErrKind) (info : Word) : (s.raise e info).bytecnt = s.bytecnt := rfl
@[simp] theorem State.raise_inLen (s : State) (e : ErrKind) (info : Word) : (s.raise e info).inLen = s.inLen := rfl
@[simp] theorem State.raise_hdr (s : State) (e : ErrKind) (info : Word) : (s.raise e info).hdr = s.hdr := rfl
@[simp] theorem State.raise_hold (s : State) (e : ErrKind) (info : Word) : (s.raise e info).hold = s.hold := rfl
@[simp] theorem State.raise_out (s : State) (e : ErrKind) (info : Word) : (s.raise e info).out = s.out := rfl
@[simp] theorem State.raise_inMem (s : State) (e : ErrKind) (info : Word) : (s.raise e info).inMem = s.inMem := rfl
@[simp] theorem State.raise_host (s : State) (e : ErrKind) (info : Word) : (s.raise e info).host = s.host := rfl
@[simp] theorem State.raise_readData (s : State) (e : ErrKind) (info : Word) : (s.raise e info).readData = s.readData := rfl
@[simp] theorem State.raise_drained (s : State) (e : ErrKind) (info : Word) : (s.raise e info).drained = s.drained := rfl

/-! ## State.hwReset (70_reset_and_hazards R83) -/

@[simp] theorem State.hwReset_params (s : State) : s.hwReset.params = s.params := rfl
@[simp] theorem State.hwReset_ctrl (s : State) : s.hwReset.ctrl = Ctrl.reset := rfl
@[simp] theorem State.hwReset_state (s : State) : s.hwReset.state = .idle := rfl
@[simp] theorem State.hwReset_phase (s : State) : s.hwReset.phase = false := rfl
@[simp] theorem State.hwReset_hdrValid (s : State) : s.hwReset.hdrValid = false := rfl
@[simp] theorem State.hwReset_errcode (s : State) : s.hwReset.errcode = 0 := rfl
@[simp] theorem State.hwReset_errinfo (s : State) : s.hwReset.errinfo = 0 := rfl
@[simp] theorem State.hwReset_pixcnt (s : State) : s.hwReset.pixcnt = 0 := rfl
@[simp] theorem State.hwReset_bytecnt (s : State) : s.hwReset.bytecnt = 0 := rfl
@[simp] theorem State.hwReset_inLen (s : State) : s.hwReset.inLen = 0 := rfl
@[simp] theorem State.hwReset_hdr (s : State) : s.hwReset.hdr = Header.zero := rfl
@[simp] theorem State.hwReset_hold (s : State) : s.hwReset.hold = 0 := rfl
@[simp] theorem State.hwReset_out (s : State) : s.hwReset.out = [] := rfl
@[simp] theorem State.hwReset_inMem (s : State) : s.hwReset.inMem = s.inMem := rfl
@[simp] theorem State.hwReset_host (s : State) : s.hwReset.host = s.host := rfl
@[simp] theorem State.hwReset_readData (s : State) : s.hwReset.readData = s.readData := rfl
@[simp] theorem State.hwReset_drained (s : State) : s.hwReset.drained = s.drained := rfl

/-! ## State.cmdReset (40_control R49) -/

@[simp] theorem State.cmdReset_params (s : State) : s.cmdReset.params = s.params := rfl
@[simp] theorem State.cmdReset_ctrl (s : State) : s.cmdReset.ctrl = Ctrl.reset := rfl
@[simp] theorem State.cmdReset_state (s : State) : s.cmdReset.state = .idle := rfl
@[simp] theorem State.cmdReset_phase (s : State) : s.cmdReset.phase = false := rfl
@[simp] theorem State.cmdReset_hdrValid (s : State) : s.cmdReset.hdrValid = false := rfl
@[simp] theorem State.cmdReset_errcode (s : State) : s.cmdReset.errcode = 0 := rfl
@[simp] theorem State.cmdReset_errinfo (s : State) : s.cmdReset.errinfo = 0 := rfl
@[simp] theorem State.cmdReset_pixcnt (s : State) : s.cmdReset.pixcnt = 0 := rfl
@[simp] theorem State.cmdReset_bytecnt (s : State) : s.cmdReset.bytecnt = 0 := rfl
@[simp] theorem State.cmdReset_inLen (s : State) : s.cmdReset.inLen = s.inLen := rfl
@[simp] theorem State.cmdReset_hdr (s : State) : s.cmdReset.hdr = Header.zero := rfl
@[simp] theorem State.cmdReset_hold (s : State) : s.cmdReset.hold = 0 := rfl
@[simp] theorem State.cmdReset_out (s : State) : s.cmdReset.out = [] := rfl
@[simp] theorem State.cmdReset_inMem (s : State) : s.cmdReset.inMem = s.inMem := rfl
@[simp] theorem State.cmdReset_host (s : State) : s.cmdReset.host = s.host := rfl
@[simp] theorem State.cmdReset_readData (s : State) : s.cmdReset.readData = s.readData := rfl
@[simp] theorem State.cmdReset_drained (s : State) : s.cmdReset.drained = s.drained := rfl

/-! ## State.clearHeaderBank (41_bmp_decoder R54) -/

@[simp] theorem State.clearHeaderBank_params (s : State) : s.clearHeaderBank.params = s.params := rfl
@[simp] theorem State.clearHeaderBank_ctrl (s : State) : s.clearHeaderBank.ctrl = s.ctrl := rfl
@[simp] theorem State.clearHeaderBank_state (s : State) : s.clearHeaderBank.state = s.state := rfl
@[simp] theorem State.clearHeaderBank_phase (s : State) : s.clearHeaderBank.phase = s.phase := rfl
@[simp] theorem State.clearHeaderBank_hdrValid (s : State) : s.clearHeaderBank.hdrValid = false := rfl
@[simp] theorem State.clearHeaderBank_errcode (s : State) : s.clearHeaderBank.errcode = s.errcode := rfl
@[simp] theorem State.clearHeaderBank_errinfo (s : State) : s.clearHeaderBank.errinfo = s.errinfo := rfl
@[simp] theorem State.clearHeaderBank_pixcnt (s : State) : s.clearHeaderBank.pixcnt = s.pixcnt := rfl
@[simp] theorem State.clearHeaderBank_bytecnt (s : State) : s.clearHeaderBank.bytecnt = s.bytecnt := rfl
@[simp] theorem State.clearHeaderBank_inLen (s : State) : s.clearHeaderBank.inLen = s.inLen := rfl
@[simp] theorem State.clearHeaderBank_hdr (s : State) : s.clearHeaderBank.hdr = Header.zero := rfl
@[simp] theorem State.clearHeaderBank_hold (s : State) : s.clearHeaderBank.hold = s.hold := rfl
@[simp] theorem State.clearHeaderBank_out (s : State) : s.clearHeaderBank.out = s.out := rfl
@[simp] theorem State.clearHeaderBank_inMem (s : State) : s.clearHeaderBank.inMem = s.inMem := rfl
@[simp] theorem State.clearHeaderBank_host (s : State) : s.clearHeaderBank.host = s.host := rfl
@[simp] theorem State.clearHeaderBank_readData (s : State) : s.clearHeaderBank.readData = s.readData := rfl
@[simp] theorem State.clearHeaderBank_drained (s : State) : s.clearHeaderBank.drained = s.drained := rfl

/-! ## State.commitHeader (41_bmp_decoder R54) -/

@[simp] theorem State.commitHeader_params (s : State) (h : Header) : (s.commitHeader h).params = s.params := rfl
@[simp] theorem State.commitHeader_ctrl (s : State) (h : Header) : (s.commitHeader h).ctrl = s.ctrl := rfl
@[simp] theorem State.commitHeader_state (s : State) (h : Header) : (s.commitHeader h).state = s.state := rfl
@[simp] theorem State.commitHeader_phase (s : State) (h : Header) : (s.commitHeader h).phase = s.phase := rfl
@[simp] theorem State.commitHeader_hdrValid (s : State) (h : Header) : (s.commitHeader h).hdrValid = true := rfl
@[simp] theorem State.commitHeader_errcode (s : State) (h : Header) : (s.commitHeader h).errcode = s.errcode := rfl
@[simp] theorem State.commitHeader_errinfo (s : State) (h : Header) : (s.commitHeader h).errinfo = s.errinfo := rfl
@[simp] theorem State.commitHeader_pixcnt (s : State) (h : Header) : (s.commitHeader h).pixcnt = s.pixcnt := rfl
@[simp] theorem State.commitHeader_bytecnt (s : State) (h : Header) : (s.commitHeader h).bytecnt = s.bytecnt := rfl
@[simp] theorem State.commitHeader_inLen (s : State) (h : Header) : (s.commitHeader h).inLen = s.inLen := rfl
@[simp] theorem State.commitHeader_hdr (s : State) (h : Header) : (s.commitHeader h).hdr = h := rfl
@[simp] theorem State.commitHeader_hold (s : State) (h : Header) : (s.commitHeader h).hold = s.hold := rfl
@[simp] theorem State.commitHeader_out (s : State) (h : Header) : (s.commitHeader h).out = s.out := rfl
@[simp] theorem State.commitHeader_inMem (s : State) (h : Header) : (s.commitHeader h).inMem = s.inMem := rfl
@[simp] theorem State.commitHeader_host (s : State) (h : Header) : (s.commitHeader h).host = s.host := rfl
@[simp] theorem State.commitHeader_readData (s : State) (h : Header) : (s.commitHeader h).readData = s.readData := rfl
@[simp] theorem State.commitHeader_drained (s : State) (h : Header) : (s.commitHeader h).drained = s.drained := rfl

/-! ## State.clearCounts (42_packer R71) -/

@[simp] theorem State.clearCounts_params (s : State) : s.clearCounts.params = s.params := rfl
@[simp] theorem State.clearCounts_ctrl (s : State) : s.clearCounts.ctrl = s.ctrl := rfl
@[simp] theorem State.clearCounts_state (s : State) : s.clearCounts.state = s.state := rfl
@[simp] theorem State.clearCounts_phase (s : State) : s.clearCounts.phase = false := rfl
@[simp] theorem State.clearCounts_hdrValid (s : State) : s.clearCounts.hdrValid = s.hdrValid := rfl
@[simp] theorem State.clearCounts_errcode (s : State) : s.clearCounts.errcode = s.errcode := rfl
@[simp] theorem State.clearCounts_errinfo (s : State) : s.clearCounts.errinfo = s.errinfo := rfl
@[simp] theorem State.clearCounts_pixcnt (s : State) : s.clearCounts.pixcnt = 0 := rfl
@[simp] theorem State.clearCounts_bytecnt (s : State) : s.clearCounts.bytecnt = 0 := rfl
@[simp] theorem State.clearCounts_inLen (s : State) : s.clearCounts.inLen = s.inLen := rfl
@[simp] theorem State.clearCounts_hdr (s : State) : s.clearCounts.hdr = s.hdr := rfl
@[simp] theorem State.clearCounts_hold (s : State) : s.clearCounts.hold = 0 := rfl
@[simp] theorem State.clearCounts_out (s : State) : s.clearCounts.out = s.out := rfl
@[simp] theorem State.clearCounts_inMem (s : State) : s.clearCounts.inMem = s.inMem := rfl
@[simp] theorem State.clearCounts_host (s : State) : s.clearCounts.host = s.host := rfl
@[simp] theorem State.clearCounts_readData (s : State) : s.clearCounts.readData = s.readData := rfl
@[simp] theorem State.clearCounts_drained (s : State) : s.clearCounts.drained = s.drained := rfl

/-! ## State.countPixel (42_packer R71) -/

@[simp] theorem State.countPixel_params (s : State) : s.countPixel.params = s.params := rfl
@[simp] theorem State.countPixel_ctrl (s : State) : s.countPixel.ctrl = s.ctrl := rfl
@[simp] theorem State.countPixel_state (s : State) : s.countPixel.state = s.state := rfl
@[simp] theorem State.countPixel_phase (s : State) : s.countPixel.phase = s.phase := rfl
@[simp] theorem State.countPixel_hdrValid (s : State) : s.countPixel.hdrValid = s.hdrValid := rfl
@[simp] theorem State.countPixel_errcode (s : State) : s.countPixel.errcode = s.errcode := rfl
@[simp] theorem State.countPixel_errinfo (s : State) : s.countPixel.errinfo = s.errinfo := rfl
@[simp] theorem State.countPixel_pixcnt (s : State) : s.countPixel.pixcnt = s.pixcnt + 1 := rfl
@[simp] theorem State.countPixel_bytecnt (s : State) : s.countPixel.bytecnt = s.bytecnt := rfl
@[simp] theorem State.countPixel_inLen (s : State) : s.countPixel.inLen = s.inLen := rfl
@[simp] theorem State.countPixel_hdr (s : State) : s.countPixel.hdr = s.hdr := rfl
@[simp] theorem State.countPixel_hold (s : State) : s.countPixel.hold = s.hold := rfl
@[simp] theorem State.countPixel_out (s : State) : s.countPixel.out = s.out := rfl
@[simp] theorem State.countPixel_inMem (s : State) : s.countPixel.inMem = s.inMem := rfl
@[simp] theorem State.countPixel_host (s : State) : s.countPixel.host = s.host := rfl
@[simp] theorem State.countPixel_readData (s : State) : s.countPixel.readData = s.readData := rfl
@[simp] theorem State.countPixel_drained (s : State) : s.countPixel.drained = s.drained := rfl

/-! ## State.emitImage (41_bmp_decoder R61) -/

@[simp] theorem State.emitImage_params (s : State) (n : Nat) (ps : List Pixel) : (s.emitImage n ps).params = s.params := rfl
@[simp] theorem State.emitImage_ctrl (s : State) (n : Nat) (ps : List Pixel) : (s.emitImage n ps).ctrl = s.ctrl := rfl
@[simp] theorem State.emitImage_state (s : State) (n : Nat) (ps : List Pixel) : (s.emitImage n ps).state = s.state := rfl
@[simp] theorem State.emitImage_phase (s : State) (n : Nat) (ps : List Pixel) : (s.emitImage n ps).phase = false := rfl
@[simp] theorem State.emitImage_hdrValid (s : State) (n : Nat) (ps : List Pixel) : (s.emitImage n ps).hdrValid = s.hdrValid := rfl
@[simp] theorem State.emitImage_errcode (s : State) (n : Nat) (ps : List Pixel) : (s.emitImage n ps).errcode = s.errcode := rfl
@[simp] theorem State.emitImage_errinfo (s : State) (n : Nat) (ps : List Pixel) : (s.emitImage n ps).errinfo = s.errinfo := rfl
@[simp] theorem State.emitImage_pixcnt (s : State) (n : Nat) (ps : List Pixel) : (s.emitImage n ps).pixcnt = BitVec.ofNat 32 n := rfl
@[simp] theorem State.emitImage_bytecnt (s : State) (n : Nat) (ps : List Pixel) : (s.emitImage n ps).bytecnt = 0 + BitVec.ofNat 32 (packStream s.ctrl.bpp ps).length := rfl
@[simp] theorem State.emitImage_inLen (s : State) (n : Nat) (ps : List Pixel) : (s.emitImage n ps).inLen = s.inLen := rfl
@[simp] theorem State.emitImage_hdr (s : State) (n : Nat) (ps : List Pixel) : (s.emitImage n ps).hdr = s.hdr := rfl
@[simp] theorem State.emitImage_hold (s : State) (n : Nat) (ps : List Pixel) : (s.emitImage n ps).hold = 0 := rfl
@[simp] theorem State.emitImage_out (s : State) (n : Nat) (ps : List Pixel) : (s.emitImage n ps).out = s.out ++ packStream s.ctrl.bpp ps := rfl
@[simp] theorem State.emitImage_inMem (s : State) (n : Nat) (ps : List Pixel) : (s.emitImage n ps).inMem = s.inMem := rfl
@[simp] theorem State.emitImage_host (s : State) (n : Nat) (ps : List Pixel) : (s.emitImage n ps).host = s.host := rfl
@[simp] theorem State.emitImage_readData (s : State) (n : Nat) (ps : List Pixel) : (s.emitImage n ps).readData = s.readData := rfl
@[simp] theorem State.emitImage_drained (s : State) (n : Nat) (ps : List Pixel) : (s.emitImage n ps).drained = s.drained := rfl

/-! ## State.writeInLen (40_control R50) -/

@[simp] theorem State.writeInLen_params (s : State) (v : Word) : (s.writeInLen v).params = s.params := rfl
@[simp] theorem State.writeInLen_ctrl (s : State) (v : Word) : (s.writeInLen v).ctrl = s.ctrl := rfl
@[simp] theorem State.writeInLen_state (s : State) (v : Word) : (s.writeInLen v).state = s.state := rfl
@[simp] theorem State.writeInLen_phase (s : State) (v : Word) : (s.writeInLen v).phase = s.phase := rfl
@[simp] theorem State.writeInLen_hdrValid (s : State) (v : Word) : (s.writeInLen v).hdrValid = s.hdrValid := rfl
@[simp] theorem State.writeInLen_errcode (s : State) (v : Word) : (s.writeInLen v).errcode = s.errcode := rfl
@[simp] theorem State.writeInLen_errinfo (s : State) (v : Word) : (s.writeInLen v).errinfo = s.errinfo := rfl
@[simp] theorem State.writeInLen_pixcnt (s : State) (v : Word) : (s.writeInLen v).pixcnt = s.pixcnt := rfl
@[simp] theorem State.writeInLen_bytecnt (s : State) (v : Word) : (s.writeInLen v).bytecnt = s.bytecnt := rfl
@[simp] theorem State.writeInLen_inLen (s : State) (v : Word) : (s.writeInLen v).inLen = v := rfl
@[simp] theorem State.writeInLen_hdr (s : State) (v : Word) : (s.writeInLen v).hdr = s.hdr := rfl
@[simp] theorem State.writeInLen_hold (s : State) (v : Word) : (s.writeInLen v).hold = s.hold := rfl
@[simp] theorem State.writeInLen_out (s : State) (v : Word) : (s.writeInLen v).out = s.out := rfl
@[simp] theorem State.writeInLen_inMem (s : State) (v : Word) : (s.writeInLen v).inMem = s.inMem := rfl
@[simp] theorem State.writeInLen_host (s : State) (v : Word) : (s.writeInLen v).host = s.host := rfl
@[simp] theorem State.writeInLen_readData (s : State) (v : Word) : (s.writeInLen v).readData = s.readData := rfl
@[simp] theorem State.writeInLen_drained (s : State) (v : Word) : (s.writeInLen v).drained = s.drained := rfl

/-! ## State.openStream (42_packer R71): what it leaves as it was -/

@[simp] theorem State.openStream_params (s : State) : s.openStream.params = s.params := by
  unfold State.openStream; split <;> rfl
@[simp] theorem State.openStream_ctrl (s : State) : s.openStream.ctrl = s.ctrl := by
  unfold State.openStream; split <;> rfl
@[simp] theorem State.openStream_hdrValid (s : State) : s.openStream.hdrValid = s.hdrValid := by
  unfold State.openStream; split <;> rfl
@[simp] theorem State.openStream_errcode (s : State) : s.openStream.errcode = s.errcode := by
  unfold State.openStream; split <;> rfl
@[simp] theorem State.openStream_errinfo (s : State) : s.openStream.errinfo = s.errinfo := by
  unfold State.openStream; split <;> rfl
@[simp] theorem State.openStream_inLen (s : State) : s.openStream.inLen = s.inLen := by
  unfold State.openStream; split <;> rfl
@[simp] theorem State.openStream_hdr (s : State) : s.openStream.hdr = s.hdr := by
  unfold State.openStream; split <;> rfl
@[simp] theorem State.openStream_out (s : State) : s.openStream.out = s.out := by
  unfold State.openStream; split <;> rfl
@[simp] theorem State.openStream_inMem (s : State) : s.openStream.inMem = s.inMem := by
  unfold State.openStream; split <;> rfl
@[simp] theorem State.openStream_host (s : State) : s.openStream.host = s.host := by
  unfold State.openStream; split <;> rfl
@[simp] theorem State.openStream_readData (s : State) : s.openStream.readData = s.readData := by
  unfold State.openStream; split <;> rfl
@[simp] theorem State.openStream_drained (s : State) : s.openStream.drained = s.drained := by
  unfold State.openStream; split <;> rfl

/-! ## State.closeStream (40_control R48): what it leaves as it was -/

@[simp] theorem State.closeStream_params (s : State) : s.closeStream.params = s.params := by
  unfold State.closeStream; split <;> rfl
@[simp] theorem State.closeStream_ctrl (s : State) : s.closeStream.ctrl = s.ctrl := by
  unfold State.closeStream; split <;> rfl
@[simp] theorem State.closeStream_hdrValid (s : State) : s.closeStream.hdrValid = s.hdrValid := by
  unfold State.closeStream; split <;> rfl
@[simp] theorem State.closeStream_errcode (s : State) : s.closeStream.errcode = s.errcode := by
  unfold State.closeStream; split <;> rfl
@[simp] theorem State.closeStream_errinfo (s : State) : s.closeStream.errinfo = s.errinfo := by
  unfold State.closeStream; split <;> rfl
@[simp] theorem State.closeStream_pixcnt (s : State) : s.closeStream.pixcnt = s.pixcnt := by
  unfold State.closeStream; split <;> rfl
@[simp] theorem State.closeStream_bytecnt (s : State) : s.closeStream.bytecnt = s.bytecnt := by
  unfold State.closeStream; split <;> rfl
@[simp] theorem State.closeStream_inLen (s : State) : s.closeStream.inLen = s.inLen := by
  unfold State.closeStream; split <;> rfl
@[simp] theorem State.closeStream_hdr (s : State) : s.closeStream.hdr = s.hdr := by
  unfold State.closeStream; split <;> rfl
@[simp] theorem State.closeStream_out (s : State) : s.closeStream.out = s.out := by
  unfold State.closeStream; split <;> rfl
@[simp] theorem State.closeStream_inMem (s : State) : s.closeStream.inMem = s.inMem := by
  unfold State.closeStream; split <;> rfl
@[simp] theorem State.closeStream_host (s : State) : s.closeStream.host = s.host := by
  unfold State.closeStream; split <;> rfl
@[simp] theorem State.closeStream_readData (s : State) : s.closeStream.readData = s.readData := by
  unfold State.closeStream; split <;> rfl
@[simp] theorem State.closeStream_drained (s : State) : s.closeStream.drained = s.drained := by
  unfold State.closeStream; split <;> rfl

/-! ## State.push12 (42_packer R71): what it leaves as it was -/

@[simp] theorem State.push12_params (s : State) (p : Pixel) : (s.push12 p).params = s.params := by
  unfold State.push12; split <;> rfl
@[simp] theorem State.push12_ctrl (s : State) (p : Pixel) : (s.push12 p).ctrl = s.ctrl := by
  unfold State.push12; split <;> rfl
@[simp] theorem State.push12_state (s : State) (p : Pixel) : (s.push12 p).state = s.state := by
  unfold State.push12; split <;> rfl
@[simp] theorem State.push12_hdrValid (s : State) (p : Pixel) : (s.push12 p).hdrValid = s.hdrValid := by
  unfold State.push12; split <;> rfl
@[simp] theorem State.push12_errcode (s : State) (p : Pixel) : (s.push12 p).errcode = s.errcode := by
  unfold State.push12; split <;> rfl
@[simp] theorem State.push12_errinfo (s : State) (p : Pixel) : (s.push12 p).errinfo = s.errinfo := by
  unfold State.push12; split <;> rfl
@[simp] theorem State.push12_pixcnt (s : State) (p : Pixel) : (s.push12 p).pixcnt = s.pixcnt := by
  unfold State.push12; split <;> rfl
@[simp] theorem State.push12_inLen (s : State) (p : Pixel) : (s.push12 p).inLen = s.inLen := by
  unfold State.push12; split <;> rfl
@[simp] theorem State.push12_hdr (s : State) (p : Pixel) : (s.push12 p).hdr = s.hdr := by
  unfold State.push12; split <;> rfl
@[simp] theorem State.push12_inMem (s : State) (p : Pixel) : (s.push12 p).inMem = s.inMem := by
  unfold State.push12; split <;> rfl
@[simp] theorem State.push12_host (s : State) (p : Pixel) : (s.push12 p).host = s.host := by
  unfold State.push12; split <;> rfl
@[simp] theorem State.push12_readData (s : State) (p : Pixel) : (s.push12 p).readData = s.readData := by
  unfold State.push12; split <;> rfl
@[simp] theorem State.push12_drained (s : State) (p : Pixel) : (s.push12 p).drained = s.drained := by
  unfold State.push12; split <;> rfl

/-! ## State.packOne (42_packer R71): what it leaves as it was -/

@[simp] theorem State.packOne_params (s : State) (p : Pixel) : (s.packOne p).params = s.params := by
  unfold State.packOne; split <;> simp
@[simp] theorem State.packOne_ctrl (s : State) (p : Pixel) : (s.packOne p).ctrl = s.ctrl := by
  unfold State.packOne; split <;> simp
@[simp] theorem State.packOne_state (s : State) (p : Pixel) : (s.packOne p).state = s.state := by
  unfold State.packOne; split <;> simp
@[simp] theorem State.packOne_hdrValid (s : State) (p : Pixel) : (s.packOne p).hdrValid = s.hdrValid := by
  unfold State.packOne; split <;> simp
@[simp] theorem State.packOne_errcode (s : State) (p : Pixel) : (s.packOne p).errcode = s.errcode := by
  unfold State.packOne; split <;> simp
@[simp] theorem State.packOne_errinfo (s : State) (p : Pixel) : (s.packOne p).errinfo = s.errinfo := by
  unfold State.packOne; split <;> simp
@[simp] theorem State.packOne_pixcnt (s : State) (p : Pixel) : (s.packOne p).pixcnt = s.pixcnt := by
  unfold State.packOne; split <;> simp
@[simp] theorem State.packOne_inLen (s : State) (p : Pixel) : (s.packOne p).inLen = s.inLen := by
  unfold State.packOne; split <;> simp
@[simp] theorem State.packOne_hdr (s : State) (p : Pixel) : (s.packOne p).hdr = s.hdr := by
  unfold State.packOne; split <;> simp
@[simp] theorem State.packOne_inMem (s : State) (p : Pixel) : (s.packOne p).inMem = s.inMem := by
  unfold State.packOne; split <;> simp
@[simp] theorem State.packOne_host (s : State) (p : Pixel) : (s.packOne p).host = s.host := by
  unfold State.packOne; split <;> simp
@[simp] theorem State.packOne_readData (s : State) (p : Pixel) : (s.packOne p).readData = s.readData := by
  unfold State.packOne; split <;> simp
@[simp] theorem State.packOne_drained (s : State) (p : Pixel) : (s.packOne p).drained = s.drained := by
  unfold State.packOne; split <;> simp

end Sys2Proof.Machine
end

