-- ==== Sys2Proof/Laws/Ops.lean ====
section
/-!
SUPPORT. What each shared operation can answer, said once: reading IN below IN_LEN always succeeds, the gates
(`unlessError`, `withDecoder`) run or answer at once, and the header decode has four outcomes.
-/
namespace Sys2Proof.Machine

/-! ## Answers -/

@[simp] theorem next_inj {s t : State} : (Host.Outcome.next s : Result) = .next t ↔ s = t :=
  ⟨fun h => by injection h, fun h => h ▸ rfl⟩

@[simp] theorem fault_ne_next {f : Fault} {t : State} : (Host.Outcome.fault f : Result) ≠ .next t := nofun

@[simp] theorem refused_ne_next {r : Refusal} {t : State} : (Host.Outcome.refused r : Result) ≠ .next t := nofun

/-! ## The gates -/

theorem State.unlessError_of_error {s : State} {run : Result} (h : s.state = .error) : s.unlessError run = .next s := by
  simp [State.unlessError, h]

theorem State.unlessError_of_ne {s : State} {run : Result} (h : s.state ≠ .error) : s.unlessError run = run := by
  unfold State.unlessError; split <;> simp_all

/-- Everything the gate can answer with a next state. -/
theorem State.unlessError_next {s t : State} {run : Result} (h : s.unlessError run = .next t) :
    (s.state = .error ∧ t = s) ∨ (s.state ≠ .error ∧ run = .next t) := by
  by_cases he : s.state = .error
  · rw [State.unlessError_of_error he] at h; exact .inl ⟨he, (next_inj.1 h).symm⟩
  · rw [State.unlessError_of_ne he] at h; exact .inr ⟨he, h⟩

theorem State.withDecoder_of_present {s : State} {i : Instr} {run : Result} (h : s.params.hasBmpDecoder = true) :
    s.withDecoder i run = run := by simp [State.withDecoder, h]

theorem State.withDecoder_of_absent {s : State} {i : Instr} {run : Result} (h : s.params.hasBmpDecoder = false) :
    s.withDecoder i run = .next (s.raise .illegalCommand (encode i)) := by simp [State.withDecoder, h]

/-! ## Reading IN -/

theorem State.inRead_of_lt {s : State} {a : Nat} (h : a < s.inLen.toNat) :
    s.inRead a = some (Memory.read s.inMem a) := by simp [State.inRead, h]

/-- The number four bytes stand for, the lowest first. -/
theorem toNat_wordOfBytes (b0 b1 b2 b3 : Byte) :
    (wordOfBytes b0 b1 b2 b3).toNat = b0.toNat + 256 * (b1.toNat + 256 * (b2.toNat + 256 * b3.toNat)) := by
  have h0 := b0.isLt
  have h1 := b1.isLt
  have h2 := b2.isLt
  have h3 := b3.isLt
  have e0 : (place 0 b0).toNat = b0.toNat := by simp [place]; omega
  have e1 : (place 8 b1).toNat = b1.toNat <<< 8 := by simp [place, Nat.shiftLeft_eq]; omega
  have e2 : (place 16 b2).toNat = b2.toNat <<< 16 := by simp [place, Nat.shiftLeft_eq]; omega
  have e3 : (place 24 b3).toNat = b3.toNat <<< 24 := by simp [place, Nat.shiftLeft_eq]; omega
  have s1 : (place 0 b0 ||| place 8 b1).toNat = b0.toNat + b1.toNat * 256 := by
    rw [BitVec.toNat_or, e0, e1, Nat.or_comm, ← Nat.shiftLeft_add_eq_or_of_lt h0, Nat.shiftLeft_eq]; omega
  have l1 : b0.toNat + b1.toNat * 256 < 2 ^ 16 := by omega
  have s2 : (place 0 b0 ||| place 8 b1 ||| place 16 b2).toNat = b0.toNat + b1.toNat * 256 + b2.toNat * 65536 := by
    rw [BitVec.toNat_or, s1, e2, Nat.or_comm, ← Nat.shiftLeft_add_eq_or_of_lt l1, Nat.shiftLeft_eq]; omega
  have l2 : b0.toNat + b1.toNat * 256 + b2.toNat * 65536 < 2 ^ 24 := by omega
  rw [wordOfBytes, BitVec.toNat_or, s2, e3, Nat.or_comm, ← Nat.shiftLeft_add_eq_or_of_lt l2, Nat.shiftLeft_eq]
  omega

/-- A 16-bit field below IN_LEN reads, and its value is the little-endian number of its bytes. -/
theorem State.le16_of_lt {s : State} {a : Nat} (h : a + 1 < s.inLen.toNat) :
    ∃ v, s.le16 a = some v ∧ v.toNat = leNat s.inMem a 2 := by
  have e : s.le16 a = some (wordOfBytes (Memory.read s.inMem a) (Memory.read s.inMem (a + 1)) 0 0) := by
    simp [State.le16, State.inRead_of_lt h, State.inRead_of_lt (Nat.lt_of_succ_lt h)]
  exact ⟨_, e, by rw [toNat_wordOfBytes]; rfl⟩

/-- A 32-bit field below IN_LEN reads, and its value is the little-endian number of its bytes. -/
theorem State.le32_of_lt {s : State} {a : Nat} (h : a + 3 < s.inLen.toNat) :
    ∃ v, s.le32 a = some v ∧ v.toNat = leNat s.inMem a 4 := by
  have e : s.le32 a = some (wordOfBytes (Memory.read s.inMem a) (Memory.read s.inMem (a + 1))
      (Memory.read s.inMem (a + 2)) (Memory.read s.inMem (a + 3))) := by
    simp [State.le32, State.inRead_of_lt h, State.inRead_of_lt (show a + 2 < s.inLen.toNat by omega),
      State.inRead_of_lt (show a + 1 < s.inLen.toNat by omega), State.inRead_of_lt (show a < s.inLen.toNat by omega)]
  exact ⟨_, e, by rw [toNat_wordOfBytes]; rfl⟩

/-- When the whole header lies below IN_LEN it reads, and what it reads is what the memory holds. -/
theorem State.readHeader_of_le {s : State} (h : headerBytes ≤ s.inLen.toNat) :
    ∃ x, s.readHeader = some x ∧ HeaderAt s.inMem x := by
  unfold headerBytes at h
  obtain ⟨v0, e0, n0⟩ := State.le16_of_lt (s := s) (a := 0x00) (by omega)
  obtain ⟨v1, e1, n1⟩ := State.le32_of_lt (s := s) (a := 0x02) (by omega)
  obtain ⟨v2, e2, n2⟩ := State.le32_of_lt (s := s) (a := 0x0A) (by omega)
  obtain ⟨v3, e3, n3⟩ := State.le32_of_lt (s := s) (a := 0x0E) (by omega)
  obtain ⟨v4, e4, n4⟩ := State.le32_of_lt (s := s) (a := 0x12) (by omega)
  obtain ⟨v5, e5, n5⟩ := State.le32_of_lt (s := s) (a := 0x16) (by omega)
  obtain ⟨v6, e6, n6⟩ := State.le16_of_lt (s := s) (a := 0x1A) (by omega)
  obtain ⟨v7, e7, n7⟩ := State.le16_of_lt (s := s) (a := 0x1C) (by omega)
  obtain ⟨v8, e8, n8⟩ := State.le32_of_lt (s := s) (a := 0x1E) (by omega)
  obtain ⟨v9, e9, n9⟩ := State.le32_of_lt (s := s) (a := 0x22) (by omega)
  obtain ⟨v10, e10, n10⟩ := State.le32_of_lt (s := s) (a := 0x26) (by omega)
  obtain ⟨v11, e11, n11⟩ := State.le32_of_lt (s := s) (a := 0x2A) (by omega)
  obtain ⟨v12, e12, n12⟩ := State.le32_of_lt (s := s) (a := 0x2E) (by omega)
  obtain ⟨v13, e13, n13⟩ := State.le32_of_lt (s := s) (a := 0x32) (by omega)
  refine ⟨⟨v0, v1, v2, v3, v4, v5, v6, v7, v8, v9, v10, v11, v12, v13⟩, ?_,
    n0, n1, n2, n3, n4, n5, n6, n7, n8, n9, n10, n11, n12, n13⟩
  simp [State.readHeader, e0, e1, e2, e3, e4, e5, e6, e7, e8, e9, e10, e11, e12, e13]

/-- The memory determines the header. -/
theorem HeaderAt.unique {m : Memory} {g h : Header} (hg : HeaderAt m g) (hh : HeaderAt m h) : g = h := by
  obtain ⟨g0, g1, g2, g3, g4, g5, g6, g7, g8, g9, g10, g11, g12, g13⟩ := hg
  obtain ⟨h0, h1, h2, h3, h4, h5, h6, h7, h8, h9, h10, h11, h12, h13⟩ := hh
  cases g; cases h
  simp only [Header.mk.injEq]
  exact ⟨BitVec.eq_of_toNat_eq (g0.trans h0.symm), BitVec.eq_of_toNat_eq (g1.trans h1.symm),
    BitVec.eq_of_toNat_eq (g2.trans h2.symm), BitVec.eq_of_toNat_eq (g3.trans h3.symm),
    BitVec.eq_of_toNat_eq (g4.trans h4.symm), BitVec.eq_of_toNat_eq (g5.trans h5.symm),
    BitVec.eq_of_toNat_eq (g6.trans h6.symm), BitVec.eq_of_toNat_eq (g7.trans h7.symm),
    BitVec.eq_of_toNat_eq (g8.trans h8.symm), BitVec.eq_of_toNat_eq (g9.trans h9.symm),
    BitVec.eq_of_toNat_eq (g10.trans h10.symm), BitVec.eq_of_toNat_eq (g11.trans h11.symm),
    BitVec.eq_of_toNat_eq (g12.trans h12.symm), BitVec.eq_of_toNat_eq (g13.trans h13.symm)⟩

/-- The pixels at addresses that lie below IN_LEN load, each as the memory holds it. -/
theorem State.loadAll_of_lt {s : State} {as : List Nat} (h : ∀ a ∈ as, a + 3 ≤ s.inLen.toNat) :
    s.loadAll as = some (as.map (pixelAt s.inMem)) := by
  induction as with
  | nil => rfl
  | cons a as ih =>
    have ha := h a List.mem_cons_self
    rw [State.loadAll, ih fun x hx => h x (List.mem_cons_of_mem a hx)]
    simp [State.loadPixel, State.inRead_of_lt (show a < s.inLen.toNat by omega),
      State.inRead_of_lt (show a + 1 < s.inLen.toNat by omega), State.inRead_of_lt (show a + 2 < s.inLen.toNat by omega),
      pixelAt]

/-! ## The header decode -/

theorem headerFailure_eq_none {h : Header} : headerFailure h = none ↔ h.Valid := by
  unfold headerFailure Header.Valid
  split
  · simp_all
  · split
    · simp_all
    · split
      · simp_all
      · split <;> simp_all

/-- Everything the header decode can answer: too short, a failed check, or `k` with the committed header. -/
theorem State.decodeHeaderChecked_cases (s : State) (k : State → Header → Result) :
    (s.inLen.toNat < headerBytes ∧
      s.decodeHeaderChecked k = .next (s.clearHeaderBank.raise .truncatedData (BitVec.ofNat 32 headerBytes))) ∨
    (headerBytes ≤ s.inLen.toNat ∧ ∃ h, HeaderAt s.inMem h ∧ ∃ e info, headerFailure h = some (e, info) ∧
      s.decodeHeaderChecked k = .next (s.clearHeaderBank.raise e info)) ∨
    (headerBytes ≤ s.inLen.toNat ∧ ∃ h, HeaderAt s.inMem h ∧ headerFailure h = none ∧
      s.decodeHeaderChecked k = k (s.commitHeader h) h) := by
  by_cases hl : s.inLen.toNat < headerBytes
  · exact .inl ⟨hl, by simp [State.decodeHeaderChecked, hl]⟩
  · have hl' : headerBytes ≤ s.inLen.toNat := Nat.le_of_not_lt hl
    obtain ⟨h, hr, hh⟩ := State.readHeader_of_le hl'
    refine .inr ?_
    cases hf : headerFailure h with
    | none => exact .inr ⟨hl', h, hh, hf, by simp [State.decodeHeaderChecked, hl, hr, hf]⟩
    | some x => exact .inl ⟨hl', h, hh, x.1, x.2, hf, by simp [State.decodeHeaderChecked, hl, hr, hf]⟩

end Sys2Proof.Machine
end

