-- ==== Sys2Proof/Laws/Exec.lean ====
section
/-!
SUPPORT. Everything a command, a command word, a host step and a step of the machine can do, said once: if it answers a next
state, one of the listed cases holds. Later proofs split on these cases instead of unfolding the meanings.
-/
namespace Sys2Proof.Machine

theorem State.truncated_iff {s : State} {h : Header} :
    s.truncated h = true ↔ 0 < pixelCount h ∧ s.inLen.toNat < pixelEnd s.ctrl h := by
  rw [State.truncated, Bool.and_eq_true, decide_eq_true_iff, decide_eq_true_iff]

/-- A header command is a DECODE_HEADER outside ERROR or a CONVERT in IDLE, in a build with the decoder. -/
def HeaderCommand (s : State) (i : Instr) : Prop :=
  s.state ≠ .error ∧ s.params.hasBmpDecoder = true ∧ (i = .decodeHeader ∨ (i = .convert ∧ s.state = .idle))

/-- The next states of a command, by what happens. -/
inductive Effect (s : State) : Instr → State → Prop
  | ignored (i : Instr) (hs : s.state = .error) (hi : ∀ x, i ≠ .reset x) : Effect s i s
  | nop (hs : s.state ≠ .error) : Effect s .nop s
  | configInStream (bpp : Byte) (flip pad : Bool) (hs : s.state = .stream) :
      Effect s (.config bpp flip pad) (s.raise .sequenceError (encode (.config bpp flip pad)))
  | configNoPacker (bpp : Byte) (flip pad : Bool) (hs : s.state = .idle) (hd : depthOf bpp = none) :
      Effect s (.config bpp flip pad) (s.raise .unsupportedOutputBpp (bpp.setWidth 32))
  | config (bpp : Byte) (flip pad : Bool) (d : Depth) (hs : s.state = .idle) (hd : depthOf bpp = some d) :
      Effect s (.config bpp flip pad) { s with ctrl := ⟨d, flip, padModeOf pad⟩ }
  | push (r g b : Byte) (hs : s.state ≠ .error) : Effect s (.push r g b) (s.openStream.packOne ⟨r, g, b⟩).countPixel
  | endStream (hs : s.state ≠ .error) : Effect s .endStream s.closeStream
  | reset (x : BitVec 28) : Effect s (.reset x) s.cmdReset
  | decoderAbsent (i : Instr) (hs : s.state ≠ .error) (hp : s.params.hasBmpDecoder = false)
      (hi : i = .decodeHeader ∨ i = .convert) : Effect s i (s.raise .illegalCommand (encode i))
  | convertInStream (hs : s.state = .stream) (hp : s.params.hasBmpDecoder = true) :
      Effect s .convert (s.raise .sequenceError (encode .convert))
  | headerShort (i : Instr) (hc : HeaderCommand s i) (hl : s.inLen.toNat < headerBytes) :
      Effect s i (s.clearHeaderBank.raise .truncatedData (BitVec.ofNat 32 headerBytes))
  | headerBad (i : Instr) (h : Header) (e : ErrKind) (info : Word) (hc : HeaderCommand s i)
      (hl : headerBytes ≤ s.inLen.toNat) (hh : HeaderAt s.inMem h) (hf : headerFailure h = some (e, info)) :
      Effect s i (s.clearHeaderBank.raise e info)
  | headerGood (h : Header) (hc : HeaderCommand s .decodeHeader) (hl : headerBytes ≤ s.inLen.toNat)
      (hh : HeaderAt s.inMem h) (hf : headerFailure h = none) : Effect s .decodeHeader (s.commitHeader h)
  | convertTruncated (h : Header) (hc : HeaderCommand s .convert) (hl : headerBytes ≤ s.inLen.toNat)
      (hh : HeaderAt s.inMem h) (hf : headerFailure h = none) (ht : 0 < pixelCount h ∧ s.inLen.toNat < pixelEnd s.ctrl h) :
      Effect s .convert ((s.commitHeader h).raise .truncatedData (saturate (pixelEnd s.ctrl h)))
  | convert (h : Header) (ps : List Pixel) (hc : HeaderCommand s .convert) (hl : headerBytes ≤ s.inLen.toNat)
      (hh : HeaderAt s.inMem h) (hf : headerFailure h = none)
      (ht : ¬(0 < pixelCount h ∧ s.inLen.toNat < pixelEnd s.ctrl h)) (hp : (s.commitHeader h).loadPixels h = some ps) :
      Effect s .convert ((s.commitHeader h).emitImage (pixelCount h) ps)

theorem convertPixels_cases {s t : State} {h : Header} (hx : s.convertPixels h = .next t) :
    ((0 < pixelCount h ∧ s.inLen.toNat < pixelEnd s.ctrl h) ∧ t = s.raise .truncatedData (saturate (pixelEnd s.ctrl h))) ∨
    (¬(0 < pixelCount h ∧ s.inLen.toNat < pixelEnd s.ctrl h) ∧
      ∃ ps, s.loadPixels h = some ps ∧ t = s.emitImage (pixelCount h) ps) := by
  unfold State.convertPixels at hx
  split at hx
  · exact .inl ⟨State.truncated_iff.1 ‹_›, (next_inj.1 hx).symm⟩
  · refine .inr ⟨fun ht => absurd (State.truncated_iff.2 ht) ‹_›, ?_⟩
    split at hx
    · cases hx
    · exact ⟨_, ‹_›, (next_inj.1 hx).symm⟩

/-- Everything a command can do when it answers a next state. -/
theorem exec_cases {i : Instr} {s t : State} (h : exec i s = .next t) : Effect s i t := by
  cases i with
  | reset x => cases next_inj.1 h; exact .reset x
  | nop =>
    rcases State.unlessError_next h with ⟨he, rfl⟩ | ⟨he, h⟩
    · exact .ignored _ he nofun
    · cases next_inj.1 h; exact .nop he
  | config bpp flip pad =>
    rcases State.unlessError_next h with ⟨he, rfl⟩ | ⟨he, h⟩
    · exact .ignored _ he nofun
    · split at h
      · cases next_inj.1 h; exact .configInStream _ _ _ ‹_›
      · have hi : s.state = .idle := by cases hs : s.state <;> simp_all
        split at h
        · cases next_inj.1 h; exact .configNoPacker _ _ _ hi ‹_›
        · cases next_inj.1 h; exact .config _ _ _ _ hi ‹_›
  | push r g b =>
    rcases State.unlessError_next h with ⟨he, rfl⟩ | ⟨he, h⟩
    · exact .ignored _ he nofun
    · cases next_inj.1 h; exact .push r g b he
  | endStream =>
    rcases State.unlessError_next h with ⟨he, rfl⟩ | ⟨he, h⟩
    · exact .ignored _ he nofun
    · cases next_inj.1 h; exact .endStream he
  | decodeHeader =>
    rcases State.unlessError_next h with ⟨he, rfl⟩ | ⟨he, h⟩
    · exact .ignored _ he nofun
    · cases hp : s.params.hasBmpDecoder with
      | false => rw [State.withDecoder_of_absent hp] at h; cases next_inj.1 h; exact .decoderAbsent _ he hp (.inl rfl)
      | true =>
        rw [State.withDecoder_of_present hp] at h
        have hc : HeaderCommand s .decodeHeader := ⟨he, hp, .inl rfl⟩
        rcases s.decodeHeaderChecked_cases (fun s' _ => .next s') with ⟨hl, e⟩ | ⟨hl, x, hh, e, n, hf, q⟩ | ⟨hl, x, hh, hf, e⟩
        · cases next_inj.1 (h.symm.trans e); exact .headerShort _ hc hl
        · cases next_inj.1 (h.symm.trans q); exact .headerBad _ x e n hc hl hh hf
        · cases next_inj.1 (h.symm.trans e); exact .headerGood x hc hl hh hf
  | convert =>
    rcases State.unlessError_next h with ⟨he, rfl⟩ | ⟨he, h⟩
    · exact .ignored _ he nofun
    · cases hp : s.params.hasBmpDecoder with
      | false => rw [State.withDecoder_of_absent hp] at h; cases next_inj.1 h; exact .decoderAbsent _ he hp (.inr rfl)
      | true =>
        rw [State.withDecoder_of_present hp] at h
        split at h
        · cases next_inj.1 h; exact .convertInStream ‹_› hp
        · have hi : s.state = .idle := by cases hs : s.state <;> simp_all
          have hc : HeaderCommand s .convert := ⟨he, hp, .inr ⟨rfl, hi⟩⟩
          rcases s.decodeHeaderChecked_cases (fun s' x => s'.convertPixels x) with
            ⟨hl, e⟩ | ⟨hl, x, hh, e, n, hf, q⟩ | ⟨hl, x, hh, hf, e⟩
          · cases next_inj.1 (h.symm.trans e); exact .headerShort _ hc hl
          · cases next_inj.1 (h.symm.trans q); exact .headerBad _ x e n hc hl hh hf
          · rcases convertPixels_cases (e.symm.trans h) with ⟨ht, rfl⟩ | ⟨ht, ps, hps, rfl⟩
            · exact .convertTruncated x hc hl hh hf ht
            · exact .convert x ps hc hl hh hf ht hps

/-- Everything a command word can do: a command, or an illegal word raised or ignored. -/
theorem execute_cases {s t : State} {w : Word} (h : s.execute w = .next t) :
    (∃ i, decode s.params w = .ok i ∧ Effect s i t) ∨
    (∃ e, decode s.params w = .error e ∧
      ((s.state = .error ∧ t = s) ∨ (s.state ≠ .error ∧ t = s.raise .illegalCommand w))) := by
  unfold State.execute at h
  split at h
  · exact .inl ⟨_, ‹_›, exec_cases h⟩
  · refine .inr ⟨_, ‹_›, ?_⟩
    rcases State.unlessError_next h with h | ⟨h1, h2⟩
    · exact .inl h
    · exact .inr ⟨h1, (next_inj.1 h2).symm⟩

/-- A host step writes the command word `w` to CMD. -/
def WritesCmd (h : HostStep) (w : Word) : Prop :=
  h = .write 4 0x00 w ∨ ∃ b0 b1 b2 b3, h = .writeCmdBytes b0 b1 b2 b3 ∧ w = wordOfBytes b0 b1 b2 b3

/-- The next states of a host step, by what happens. -/
inductive HostEffect (s : State) : HostStep → State → Prop
  | command (h : HostStep) (w : Word) (i : Instr) (t : State) (hw : WritesCmd h w) (hd : decode s.params w = .ok i)
      (he : Effect s i t) : HostEffect s h t
  | illegal (h : HostStep) (w : Word) (e : Illegal) (hw : WritesCmd h w) (hd : decode s.params w = .error e)
      (hs : s.state ≠ .error) : HostEffect s h (s.raise .illegalCommand w)
  | illegalIgnored (h : HostStep) (w : Word) (e : Illegal) (hw : WritesCmd h w) (hd : decode s.params w = .error e)
      (hs : s.state = .error) : HostEffect s h s
  | inLen (v : Word) : HostEffect s (.write 4 0x1C v) (s.writeInLen v)
  | writeIgnored (offset : Nat) (v : Word) (h0 : offset ≠ 0x00) (h1 : offset ≠ 0x1C) : HostEffect s (.write 4 offset v) s
  | read (offset : Nat) : HostEffect s (.read 4 offset) { s with readData := s.readData ++ [s.regRead offset] }
  | setIn (a : Nat) (b : Byte) (ha : a < Memory.limit) :
      HostEffect s (.setIn a b) { s with inMem := Memory.write s.inMem a b }
  | drain (k : Nat) (hk : k ≤ s.out.length) : HostEffect s (.drain k) (s.drainOut k)
  | hardwareReset : HostEffect s .hardwareReset s.hwReset

theorem portAccessOk_size {size offset : Nat} (h : portAccessOk size offset = true) : size = 4 := by
  simp only [portAccessOk, Bool.and_eq_true, beq_iff_eq] at h
  exact h.1.1

theorem execute_hostEffect {s t : State} {h : HostStep} {w : Word} (hw : WritesCmd h w) (hx : s.execute w = .next t) :
    HostEffect s h t := by
  rcases execute_cases hx with ⟨i, hd, he⟩ | ⟨e, hd, ⟨hs, rfl⟩ | ⟨hs, rfl⟩⟩
  · exact .command h w i t hw hd he
  · exact .illegalIgnored h w e hw hd hs
  · exact .illegal h w e hw hd hs

/-- Everything a host step can do when it answers a next state. -/
theorem hostStep_cases {s t : State} {h : HostStep} (hx : s.hostStep h = .next t) : HostEffect s h t := by
  cases h with
  | write size offset v =>
    simp only [State.hostStep, State.portWrite] at hx
    split at hx
    · obtain rfl := portAccessOk_size ‹_›
      split at hx
      · subst offset; exact execute_hostEffect (.inl rfl) hx
      · split at hx
        · subst offset; cases next_inj.1 hx; exact .inLen v
        · cases next_inj.1 hx; exact .writeIgnored offset v ‹_› ‹_›
    · cases hx
  | writeCmdBytes b0 b1 b2 b3 => exact execute_hostEffect (.inr ⟨b0, b1, b2, b3, rfl, rfl⟩) hx
  | read size offset =>
    simp only [State.hostStep, State.portRead] at hx
    split at hx
    · obtain rfl := portAccessOk_size ‹_›
      cases next_inj.1 hx; exact .read offset
    · cases hx
  | setIn a b =>
    simp only [State.hostStep, State.hostSetIn] at hx
    split at hx
    · cases next_inj.1 hx; exact .setIn a b ‹_›
    · cases hx
  | drain k =>
    simp only [State.hostStep, State.hostDrain] at hx
    split at hx
    · cases next_inj.1 hx; exact .drain k ‹_›
    · cases hx
  | hardwareReset => cases next_inj.1 hx; exact .hardwareReset

/-- Everything a step of the machine can do when it answers a next state. -/
theorem step_cases {s t : State} (h : step s = .next t) :
    (s.host = [] ∧ t = s) ∨ ∃ x rest, s.host = x :: rest ∧ HostEffect { s with host := rest } x t := by
  unfold step at h
  split at h
  · exact .inl ⟨‹_›, (next_inj.1 h).symm⟩
  · exact .inr ⟨_, _, ‹_›, hostStep_cases h⟩

end Sys2Proof.Machine
end

