-- ==== Sys2Proof/Laws/Memory.lean ====
section
/-!
SUPPORT. The input memory: its canonical form, kept by every write, and what a byte reads as after a write.
-/
namespace Sys2Proof.Machine

theorem Memory.wfFrom_cons {lo x : Nat} {v : Byte} {m : Memory} :
    Memory.wfFrom lo ((x, v) :: m) = true ↔
      lo ≤ x ∧ x < Memory.limit ∧ v ≠ Memory.unlisted ∧ Memory.wfFrom (x + 1) m = true := by
  simp [Memory.wfFrom, and_assoc]

theorem Memory.wfFrom_mono {lo lo' : Nat} {m : Memory} (h : lo' ≤ lo) (hm : Memory.wfFrom lo m = true) :
    Memory.wfFrom lo' m = true := by
  cases m with
  | nil => rfl
  | cons c m =>
    obtain ⟨x, v⟩ := c
    rw [Memory.wfFrom_cons] at hm ⊢
    exact ⟨by omega, hm.2⟩

/-- Below the first listed address every byte is unlisted. -/
theorem Memory.read_below {lo a : Nat} {m : Memory} (hm : Memory.wfFrom lo m = true) (ha : a < lo) :
    Memory.read m a = Memory.unlisted := by
  induction m generalizing lo with
  | nil => rfl
  | cons c m ih =>
    obtain ⟨x, v⟩ := c
    rw [Memory.wfFrom_cons] at hm
    rw [Memory.read, if_neg (by omega)]
    exact ih hm.2.2.2 (by omega)

theorem Memory.write_wfFrom {lo a : Nat} {b : Byte} {m : Memory} (hm : Memory.wfFrom lo m = true) (hlo : lo ≤ a)
    (ha : a < Memory.limit) : Memory.wfFrom lo (Memory.write m a b) = true := by
  induction m generalizing lo with
  | nil =>
    unfold Memory.write
    split
    · rfl
    · exact Memory.wfFrom_cons.2 ⟨hlo, ha, ‹_›, rfl⟩
  | cons c m ih =>
    obtain ⟨x, v⟩ := c
    have h := Memory.wfFrom_cons.1 hm
    unfold Memory.write
    split
    · split
      · exact hm
      · exact Memory.wfFrom_cons.2 ⟨hlo, ha, ‹_›, Memory.wfFrom_cons.2 ⟨by omega, h.2⟩⟩
    · split
      · subst a
        split
        · exact Memory.wfFrom_mono (by omega) h.2.2.2
        · exact Memory.wfFrom_cons.2 ⟨h.1, h.2.1, ‹_›, h.2.2.2⟩
      · exact Memory.wfFrom_cons.2 ⟨h.1, h.2.1, h.2.2.1, ih h.2.2.2 (by omega)⟩

/-- A write within IN keeps the canonical form. -/
theorem Memory.write_wf {a : Nat} {b : Byte} {m : Memory} (hm : Memory.wf m = true) (ha : a < Memory.limit) :
    Memory.wf (Memory.write m a b) = true := Memory.write_wfFrom hm (Nat.zero_le a) ha

theorem Memory.read_writeFrom {lo a : Nat} {b : Byte} {m : Memory} (hm : Memory.wfFrom lo m = true) (x : Nat) :
    Memory.read (Memory.write m a b) x = if x = a then b else Memory.read m x := by
  induction m generalizing lo with
  | nil =>
    unfold Memory.write
    by_cases hb : b = Memory.unlisted
    · simp [hb, Memory.read]
    · by_cases hx : x = a
      · simp [hb, Memory.read, hx]
      · simp [hb, Memory.read, hx, Ne.symm hx]
  | cons c m ih =>
    obtain ⟨y, v⟩ := c
    have h := Memory.wfFrom_cons.1 hm
    have low : ∀ z, z < y → Memory.read ((y, v) :: m) z = Memory.unlisted := fun z hz =>
      Memory.read_below (lo := y) (Memory.wfFrom_cons.2 ⟨le_refl y, h.2⟩) hz
    unfold Memory.write
    split
    · split
      · by_cases hx : x = a
        · rw [if_pos hx, hx, low a ‹_›]; exact Eq.symm ‹_›
        · rw [if_neg hx]
      · by_cases hx : x = a
        · simp [Memory.read, hx]
        · rw [Memory.read, if_neg (Ne.symm hx), if_neg hx]
    · split
      · subst a
        split
        · by_cases hx : x = y
          · rw [if_pos hx, hx, Memory.read_below h.2.2.2 (by omega)]; exact Eq.symm ‹_›
          · rw [if_neg hx, Memory.read, if_neg (Ne.symm hx)]
        · by_cases hx : x = y
          · simp [Memory.read, hx]
          · rw [Memory.read, if_neg (Ne.symm hx), if_neg hx, Memory.read, if_neg (Ne.symm hx)]
      · by_cases hy : y = x
        · subst hy; rw [Memory.read, if_pos rfl, if_neg (by omega), Memory.read, if_pos rfl]
        · rw [Memory.read, if_neg hy, ih h.2.2.2, Memory.read, if_neg hy]

/-- A write sets the byte at its address and leaves every other byte as it was. -/
theorem Memory.read_write {a : Nat} {b : Byte} {m : Memory} (hm : Memory.wf m = true) (x : Nat) :
    Memory.read (Memory.write m a b) x = if x = a then b else Memory.read m x := Memory.read_writeFrom hm x

/-- The memory after reset is in canonical form. -/
theorem State.reset_memory_wf : Memory.wf State.reset.inMem = true := rfl

end Sys2Proof.Machine
end

