-- ==== Sys2Proof/Laws/PerInstr.lean ====
section
/-!
SUPPORT. The family `Laws.RowWord`: the word of every command lies in its own row of the opcode map, one lemma per
constructor (30_encoding R38).
-/
namespace Sys2Proof.Laws.RowWord

/-- The word of the command matches its row's mask and pattern, and its OP field names that row. -/
def Statement (i : Instr) : Prop := i.op.encodes (encode i) = true ∧ opOfField (opField (encode i)) = some i.op

/-- The OP field of a row's pattern names the row. -/
theorem opOfField_pattern (o : Op) : opOfField (opField o.pattern) = some o := by cases o <;> decide

/-- It is enough to compare the word with the row's pattern bit by bit, and to know the OP field. -/
theorem statement_of_bits {i : Instr} (hm : ∀ k < 32, (encode i &&& i.op.mask).getLsbD k = i.op.pattern.getLsbD k)
    (hf : ∀ k < 4, (encode i).getLsbD (28 + k) = i.op.pattern.getLsbD (28 + k)) : Statement i := by
  refine ⟨beq_iff_eq.2 (BitVec.eq_of_getLsbD_eq hm), ?_⟩
  have h : opField (encode i) = opField i.op.pattern := by
    refine BitVec.eq_of_getLsbD_eq fun k hk => ?_
    simpa [opField, BitVec.getLsbD_extractLsb', hk] using hf k hk
  exact h ▸ opOfField_pattern i.op

theorem nop : Statement .nop := by constructor <;> decide

theorem config (bpp : Byte) (flip pad : Bool) : Statement (.config bpp flip pad) := by
  apply statement_of_bits <;> intro k hk <;> simp only [encode, place, Instr.op, Op.mask, Op.pattern] <;>
    interval_cases k <;> simp

theorem push (r g b : Byte) : Statement (.push r g b) := by
  apply statement_of_bits <;> intro k hk <;> simp only [encode, place, Instr.op, Op.mask, Op.pattern] <;>
    interval_cases k <;> simp

theorem endStream : Statement .endStream := by constructor <;> decide

theorem decodeHeader : Statement .decodeHeader := by constructor <;> decide

theorem convert : Statement .convert := by constructor <;> decide

theorem reset (ignored : BitVec 28) : Statement (.reset ignored) := by
  apply statement_of_bits <;> intro k hk <;> simp only [encode, place, Instr.op, Op.mask, Op.pattern] <;>
    interval_cases k <;> simp

end Sys2Proof.Laws.RowWord
end

