-- ==== Sys2Proof/Tests/Slice0.lean ====
section
/-!
SUPPORT. The model's own tests: the words of spec/30_encoding and the vectors of spec/95_test_vectors, one step each, and
for each statement of Certificates/Slice0/Obligations.lean a witness that its hypotheses can be met.
-/
namespace Sys2Proof.Tests
open Sys2Proof Sys2Proof.Machine

/-! ## Helpers -/

/-- A memory that holds a list of bytes from an address on. -/
def cellsFrom : Nat → List Byte → Memory
  | _, [] => []
  | a, b :: bs => if b = 0 then cellsFrom (a + 1) bs else (a, b) :: cellsFrom (a + 1) bs

/-- Reset, then the host has put a file into IN and its length into IN_LEN. -/
def withFile (bs : List Byte) : State :=
  { State.reset with inMem := cellsFrom 0 bs, inLen := BitVec.ofNat 32 bs.length }

/-- The same at a depth, row order and padding. -/
def withFileAt (c : Ctrl) (bs : List Byte) : State := { withFile bs with ctrl := c }

/-- The 54 header bytes of V-BMP-1 (95_test_vectors 0) with the ident, size, width, height, planes and data size given. -/
def bmpHeader (i0 i1 size w h planes : Byte) (dataSize : Byte) : List Byte :=
  [i0, i1, size, 0, 0, 0, 0, 0, 0, 0, 0x36, 0, 0, 0, 0x28, 0] ++
  [0, 0, w, 0, 0, 0, h, 0, 0, 0, planes, 0, 0x18, 0, 0, 0] ++
  [0, 0, dataSize, 0, 0, 0, 0x13, 0x0B, 0, 0, 0x13, 0x0B, 0, 0, 0, 0] ++ [0, 0, 0, 0, 0, 0]

/-- The pixel bytes of V-BMP-1. -/
def pixels1 : List Byte := [0, 0, 0xFF, 0, 0xFF, 0, 0, 0, 0xFF, 0, 0, 0xFF, 0xFF, 0xFF, 0, 0]

/-- V-BMP-1: 2x2, 70 bytes. -/
def bmp1 : List Byte := bmpHeader 0x42 0x4D 70 2 2 1 16 ++ pixels1

/-- V-BMP-W3: 3x2, 78 bytes. -/
def bmpW3 : List Byte := bmpHeader 0x42 0x4D 0x4E 3 2 1 0x18 ++
  [0x10, 0x20, 0x30, 0x40, 0x50, 0x60, 0x70, 0x80, 0x90, 0xAA, 0xBB, 0xCC, 0xA0, 0xB0, 0xC0, 0xD0, 0xE0, 0xF0, 0x01, 0x02,
    0x03, 0xDD, 0xEE, 0xFF]

/-- A header with no pixels: width 0, height 5 (95_test_vectors E3). -/
def bmpEmpty : List Byte := bmpHeader 0x42 0x4D 54 0 5 1 0

/-- V-BMP-1 with the bytes 42 4D swapped (95_test_vectors L1-2). -/
def bmpMB : List Byte := bmpHeader 0x4D 0x42 70 2 2 1 16 ++ pixels1

/-- V-BMP-1 with planes = 2. -/
def bmpPlanes : List Byte := bmpHeader 0x42 0x4D 70 2 2 2 16 ++ pixels1

/-- The header of V-BMP-1 as the bank holds it (95_test_vectors L1-1). -/
def header1 : Header := ⟨0x4D42, 70, 54, 40, 2, 2, 1, 24, 0, 16, 2835, 2835, 0, 0⟩

/-- A state in STREAM at a depth. -/
def streaming (d : Depth) : State := { State.reset with state := .stream, ctrl := ⟨d, false, .compat⟩ }

/-- The state after the vector D1: one PUSH of (DE, AD, BE) at 12 bpp (95_test_vectors L2-D). -/
def afterD1 : State :=
  { State.reset with state := .stream, phase := true, hold := 0xB, pixcnt := 1, bytecnt := 1, out := [0xDA] }

/-- A state in ERROR: SequenceError from a CONFIG inside a stream (95_test_vectors B7). -/
def inError : State :=
  { State.reset with state := .error, errcode := 10, errinfo := 0x10000008, out := [1, 2, 3], inLen := 70 }

/-- A build without the decoder, right after reset. -/
def plain : State := State.resetWith ⟨false⟩

/-- A state whose next host step is `h`. -/
def hosted (h : HostStep) (s : State) : State := { s with host := [h] }

/-- An answer that carries a state with the property. -/
def answers (r : Result) (p : State → Bool) : Bool := (nextOf r).any p

theorem next_of_answers {r : Result} {p : State → Bool} (h : answers r p = true) : ∃ t, r = .next t ∧ p t = true := by
  cases r with
  | next t => exact ⟨t, rfl, by simpa [answers, nextOf] using h⟩
  | fault r => simp [answers, nextOf] at h
  | refused r => simp [answers, nextOf] at h

/-! ## WellFormed: an ill-formed term for each check -/

theorem test_wellFormed_decodeHeader_absent : Instr.wellFormed ⟨false⟩ .decodeHeader = false := by decide
theorem test_wellFormed_convert_absent : Instr.wellFormed ⟨false⟩ .convert = false := by decide
theorem test_wellFormed_all_present :
    ([.nop, .config 15 true true, .push 1 2 3, .endStream, .decodeHeader, .convert, .reset 7] : List Instr).all
      (Instr.wellFormed ⟨true⟩) = true := by decide
theorem test_asm_illFormed :
    ([.config 256 0 0, .config 8 2 0, .config 8 0 2, .configDepth 256, .push 256 0 0, .push 0 256 0, .push 0 0 256,
      .word 4294967296] : List AsmLine).all (fun l => (assemble l).isNone) = true := by decide

/-! ## Decoding: words written field by field from 30_encoding R37 and R38 -/

theorem test_decode_nop : decode ⟨true⟩ (0x0#4 ++ 0#28) = .ok .nop := rfl
/-- `CONFIG 24, 1, 1`: OP, 18 reserved bits, PAD, FLIP, BPP (R44: 0x10000318). -/
theorem test_decode_config : decode ⟨true⟩ (0x1#4 ++ 0#18 ++ 1#1 ++ 1#1 ++ 24#8) = .ok (.config 24 true true) := rfl
theorem test_decode_config_flip_only : decode ⟨true⟩ (0x1#4 ++ 0#18 ++ 0#1 ++ 1#1 ++ 8#8) = .ok (.config 8 true false) := rfl
/-- `PUSH 0xDE, 0xAD, 0xBE`: OP, 4 reserved bits, R, G, B (R44: 0x20DEADBE). -/
theorem test_decode_push :
    decode ⟨true⟩ (0x2#4 ++ 0#4 ++ 0xDE#8 ++ 0xAD#8 ++ 0xBE#8) = .ok (.push 0xDE 0xAD 0xBE) := rfl
theorem test_decode_end : decode ⟨true⟩ (0x3#4 ++ 0#28) = .ok .endStream := rfl
theorem test_decode_decodeHeader : decode ⟨true⟩ (0x4#4 ++ 0#28) = .ok .decodeHeader := rfl
theorem test_decode_convert : decode ⟨true⟩ (0x5#4 ++ 0#28) = .ok .convert := rfl
theorem test_decode_reset : decode ⟨true⟩ (0xF#4 ++ 0x1234567#28) = .ok (.reset 0x1234567) := rfl
/-- 95_test_vectors L2-A. -/
theorem test_decode_illegal :
    ([0x00000001, 0x0FFFFFFF, 0x10000400, 0x21000000, 0x30000001, 0x40000001, 0x50000001, 0x60000000, 0xE0000000] :
      List Nat).all (fun w => (decodeTableWord 32 w).isNone) = true := by decide
theorem test_tableWord : decodeTableWord 32 0x20DEADBE = some (.push 0xDE 0xAD 0xBE) := by decide
/-- The bytes of 0x20DEADBE on a byte-wide bus, lowest offset first (20_memory R28). -/
theorem test_decodeBytes : decodeBytes ⟨true⟩ [0xBE, 0xAD, 0xDE, 0x20, 0x55] = .ok (.push 0xDE 0xAD 0xBE, [0x55]) := rfl
theorem test_decodeBytes_short : decodeBytes ⟨true⟩ [0xBE, 0xAD, 0xDE] = .error .tooShort := rfl

/-- A program of two lines, a comment and an empty line: `CONFIG 24, 0, BMP` and `END` (30_encoding R42). -/
theorem test_assembleText :
    assembleText ['C', 'O', 'N', 'F', 'I', 'G', ' ', '2', '4', ',', ' ', '0', ',', ' ', 'B', 'M', 'P', ' ', ';', 'x', '\n',
      '\n', 'E', 'N', 'D'] = some [0x10000218, 0x30000000] := by decide
theorem test_assembleText_hex :
    assembleText ['.', 'w', 'o', 'r', 'd', ' ', '0', 'x', '2', '1', '0', '0', '0', '0', '0', '0'] = some [0x21000000] := by
  decide

/-! ## One step each, expected results from 95_test_vectors -/

/-- L2-D D1 then a NOP (B10): PHASE and HOLD stay. -/
theorem test_nop : nextOf (exec .nop afterD1) = some afterD1 := by decide
/-- L2-B B2. -/
theorem test_config : answers (exec (.config 24 true true) State.reset) (fun t => t.regRead 0x04 == 0x318) = true := by
  decide
/-- L2-B B4. -/
theorem test_config_noPacker :
    answers (exec (.config 15 false false) State.reset)
      (fun t => t.errcode == 8 && t.errinfo == 0x0F && t.regRead 0x04 == 0x0C && t.regRead 0x08 == 0x12) = true := by decide
/-- L2-D D1. -/
theorem test_push_first : nextOf (exec (.push 0xDE 0xAD 0xBE) State.reset) = some afterD1 := by decide
/-- L2-D D2, its second word. -/
theorem test_push_second :
    answers (exec (.push 0x12 0x34 0x56) afterD1)
      (fun t => t.out == [0xDA, 0xB1, 0x35] && t.regRead 0x08 == 0x11 && t.hold == 0 && t.pixcnt == 2 && t.bytecnt == 3) =
      true := by decide
/-- L1-6 and L2-C: the 16 bpp formula. -/
theorem test_pack16 :
    ([⟨0xDE, 0xAD, 0xBE⟩, ⟨0, 3, 0⟩, ⟨0, 0, 0xC0⟩, ⟨0, 8, 0⟩, ⟨7, 0x1F, 7⟩] : List Pixel).map pack16 =
      [[0xDD, 0x7F], [0, 0x18], [0, 0x18], [0, 0x40], [0, 0xF8]] := by decide
/-- L1-3 and L2-C: the 8 bpp formula. -/
theorem test_pack8 :
    ([⟨0xDE, 0xAD, 0xBE⟩, ⟨0x1F, 0x1F, 0x3F⟩, ⟨0x20, 0x20, 0x40⟩, ⟨0x80, 0x80, 0x80⟩] : List Pixel).map pack8 =
      [[0xD6], [0], [0x25], [0x92]] := by decide
/-- 40_control R48's example. -/
theorem test_end :
    answers (exec .endStream afterD1)
      (fun t => t.state == .idle && !t.phase && t.hold == 0 && t.out == [0xDA] && t.pixcnt == 1) = true := by decide
/-- L1-1. -/
theorem test_decodeHeader :
    answers (exec .decodeHeader (withFile bmp1))
      (fun t => t.hdr == header1 && t.regRead 0x08 == 0x18 && t.errcode == 0 && t.out == []) = true := by decide
/-- L1-2: the bytes 4D 42. -/
theorem test_decodeHeader_badMagic :
    answers (exec .decodeHeader (withFile bmpMB))
      (fun t => t.errcode == 1 && t.errinfo == 0x424D && t.regRead 0x08 == 0x12 && t.hdr == Header.zero) = true := by decide
/-- L2-E: V-BMP-1 at 16 bpp, no flip. -/
theorem test_convert_16 :
    answers (exec .convert (withFileAt ⟨.bpp16, false, .compat⟩ bmp1))
      (fun t => t.out == [0xF8, 0, 7, 0xF8, 0, 0x1F, 0xFF, 0xFF] && t.pixcnt == 4 && t.bytecnt == 8 && t.regRead 0x08 == 0x18)
      = true := by decide
/-- L2-E: V-BMP-W3 with `CONFIG 24, 1, 1`. -/
theorem test_convert_flip_bmp :
    answers (exec .convert (withFileAt ⟨.bpp24, true, .bmp⟩ bmpW3))
      (fun t => t.out == [0xC0, 0xB0, 0xA0, 0xF0, 0xE0, 0xD0, 0x03, 0x02, 0x01, 0x30, 0x20, 0x10, 0x60, 0x50, 0x40, 0x90,
        0x80, 0x70]) = true := by decide
/-- L2-B B12 and R49's example: a RESET in ERROR. -/
theorem test_reset :
    answers (exec (.reset 0x1234567) inError)
      (fun t => t.inLen == 70 && t.regRead 0x08 == 0x10 && t.regRead 0x04 == 0x0C && t.errcode == 0 && t.out == []) = true := by
  decide
/-- L2-A: an illegal word through `step`. -/
theorem test_step_illegal :
    answers (step (State.reset.withFetchWord 32 0x21000000))
      (fun t => t.regRead 0x08 == 0x12 && t.errcode == 9 && t.errinfo == 0x21000000) = true := by decide
/-- L2-E E12: DECODE_HEADER without the decoder. -/
theorem test_decodeHeader_absent :
    answers (plain.execute 0x40000000)
      (fun t => t.errcode == 9 && t.errinfo == 0x40000000 && t.regRead 0x08 == 0x02) = true := by decide

/-! ## Witnesses: the hypotheses of each statement, met together -/

theorem witness_DecodeOfEncode : Instr.wellFormed ⟨true⟩ .convert = true ∧ Instr.wellFormed ⟨false⟩ (.push 1 2 3) = true := by
  decide
theorem witness_EncodeOfDecode : decode ⟨false⟩ 0x20DEADBE = .ok (.push 0xDE 0xAD 0xBE) := rfl
theorem witness_OpcodeMapUnambiguous : 0x10000318 &&& Op.config.mask = Op.config.pattern := by decide
theorem witness_IllegalWordsExactly :
    decode State.reset.params 0x60000000 = .error .reservedOpcode ∧ decode State.reset.params 0xE0000000 = .error .reservedOpcode ∧
    decode State.reset.params 0x50000001 = .error .reservedBit ∧ decode plain.params 0x40000000 = .error .decoderAbsent ∧
    State.reset.state ≠ .error ∧ decode inError.params 0x60000000 = .error .reservedOpcode ∧ inError.state = .error :=
  ⟨rfl, rfl, rfl, rfl, by decide, rfl, rfl⟩
theorem witness_ResetWordsNeverIllegal : opField 0xFFFFFFFF = 0xF ∧ opField 0xF0000000 = 0xF := by decide
theorem witness_DecoderWordsIllegalWhenAbsent :
    plain.params.hasBmpDecoder = false ∧ opField 0x4FFFFFFF = 4 ∧ opField 0x50000000 = 5 ∧ plain.state ≠ .error := by decide
theorem witness_EncodingExamples : State.reset.state = .idle := by decide
theorem witness_AssembledLinesDecode :
    assemble (.push 255 255 255) = some 0x20FFFFFF ∧ assemble (.push 0 0 0) = some 0x20000000 ∧
    assemble (.config 255 1 1) = some 0x100003FF ∧ assemble (.config 0 0 0) = some 0x10000000 ∧
    assemble (.word 4294967295) = some 0xFFFFFFFF ∧ assemble (.word 4294967296) = none ∧
    assemble (.push 256 0 0) = none ∧ assemble (.config 0 2 0) = none := by decide
theorem witness_StepRunsDecodedCommand :
    (hosted (.write 4 0x00 0x20DEADBE) State.reset).host = .write 4 0x00 0x20DEADBE :: [] ∧
    decode (hosted (.write 4 0x00 0x20DEADBE) State.reset).params 0x20DEADBE = .ok (.push 0xDE 0xAD 0xBE) ∧
    Instr.wellFormed State.reset.params (.push 0xDE 0xAD 0xBE) = true ∧
    (hosted (.writeCmdBytes 0 0 0 0x50) State.reset).host = .writeCmdBytes 0 0 0 0x50 :: [] ∧
    decodeBytes (hosted (.writeCmdBytes 0 0 0 0x50) State.reset).params [0, 0, 0, 0x50] = .ok (.convert, []) ∧
    decode State.reset.params (BitVec.ofNat 32 0x30000000) = .ok .endStream :=
  ⟨rfl, rfl, rfl, rfl, rfl, rfl⟩
theorem witness_ByteBusIsLittleEndian :
    (hosted (.writeCmdBytes 0xBE 0xAD 0xDE 0x20) State.reset).host = .writeCmdBytes 0xBE 0xAD 0xDE 0x20 :: [] ∧
    (0x20DEADBE : Word).toNat = (0xBE : Byte).toNat + 256 * (0xAD : Byte).toNat + 65536 * (0xDE : Byte).toNat +
      16777216 * (0x20 : Byte).toNat := by decide
/-- One access for each outcome, at the ends of the ranges: a halfword, offset 2, 0x100; 0xFC; 0x00; 0x1C. -/
theorem witness_RegisterPortAccesses :
    (∀ p ∈ [(2, 0x00), (4, 2), (4, 0x100)], answers (step (hosted (.write p.1 p.2 1) State.reset)) (fun _ => true) = false) ∧
    (∀ p ∈ [(1, 0x04), (4, 0x1D), (4, 0x100)], answers (step (hosted (.read p.1 p.2) State.reset)) (fun _ => true) = false) ∧
    answers (step (hosted (.write 4 0xFC 1) State.reset)) (fun t => t == State.reset) = true ∧
    answers (step (hosted (.write 4 0x00 0x10000008) State.reset)) (fun t => t.ctrl.bpp == .bpp8) = true ∧
    answers (step (hosted (.write 4 0x1C 70) State.reset)) (fun t => t.inLen == 70) = true ∧
    answers (step (hosted (.read 4 0xFC) State.reset)) (fun t => t.readData == [0]) = true ∧
    answers (step (hosted (.read 4 0x08) State.reset)) (fun t => t.readData == [0x10]) = true ∧
    State.reset.regRead 0x00 = 0 ∧ State.reset.regRead 0x58 = 0 := by decide
theorem witness_InLenWrite : (hosted (.write 4 0x1C 70) inError).host = .write 4 0x1C 70 :: [] := by decide
theorem witness_DrainTakesOldestBytes :
    (hosted (.drain 3) inError).host = .drain 3 :: [] ∧ 3 ≤ inError.out.length ∧
    (hosted (.drain 4) inError).host = .drain 4 :: [] ∧ inError.out.length < 4 := by decide
theorem witness_HostChangesOneByte :
    (hosted (.setIn 4294967294 7) State.reset).host = .setIn 4294967294 7 :: [] ∧ Memory.wf State.reset.inMem = true ∧
    4294967294 < 2 ^ 32 - 1 ∧ (hosted (.setIn 4294967295 7) State.reset).host = .setIn 4294967295 7 :: [] ∧
    2 ^ 32 - 1 ≤ 4294967295 := by decide
theorem witness_OnlyHostChangesIn :
    answers (step (hosted (.drain 3) inError)) (fun _ => true) = true ∧
    ∀ a b rest, (hosted (.drain 3) inError).host ≠ .setIn a b :: rest :=
  ⟨by decide, by intro a b rest; simp [hosted]⟩
theorem witness_CommandsLeaveHostsOwn : answers (exec .convert (withFile bmp1)) (fun _ => true) = true := by decide
theorem witness_WaitsForHost : State.reset.host = [] := by decide
/-- The three stops, each at the first value that stops. -/
theorem witness_StepStopsOnlyOnHostMisuse :
    step (hosted (.read 4 0x100) State.reset) = .refused .portAccess ∧
    step (hosted (.drain 4) inError) = .refused .drainPastEnd ∧
    step (hosted (.setIn 4294967295 7) State.reset) = .fault .noSuchInAddress := ⟨rfl, rfl, rfl⟩
theorem witness_NopDoesNothing : opField 0x0FFFFFFF = 0 ∧ (0x0FFFFFFF : Word) ≠ 0 ∧ opField 1 = 0 ∧ State.reset.state ≠ .error := by
  decide
theorem witness_ConfigSetsOptions :
    (streaming .bpp24).state = .stream ∧ State.reset.state = .idle ∧
    (∀ bpp ∈ ([0, 7, 9, 23, 25, 255] : List Byte), bpp ≠ 8 ∧ bpp ≠ 12 ∧ bpp ≠ 16 ∧ bpp ≠ 24) ∧
    (0x100003FF : Word) &&& 0xFFFFFC00#32 = 0x10000000#32 ∧
    (∀ x ∈ ([(8, .bpp8), (12, .bpp12), (16, .bpp16), (24, .bpp24)] : List (Byte × Depth)),
      answers (exec (.config x.1 true false) State.reset) (fun t => t.ctrl == ⟨x.2, true, .compat⟩) = true) := by decide
theorem witness_EndClosesStream :
    afterD1.state = .stream ∧ State.reset.state = .idle ∧ opField 0x30000001 = 3 ∧ (0x30000001 : Word) ≠ 0x30000000 ∧
    State.reset.state ≠ .error ∧ answers (exec .endStream afterD1) (fun _ => true) = true := by decide
theorem witness_ResetCommand : opField 0xF1234567 = 0xF := by decide
theorem witness_ResetValues : (hosted .hardwareReset inError).host = .hardwareReset :: [] := by decide
theorem witness_FirstPushAfterReset : inError.hwReset.inLen = 0 ∧ inError.cmdReset.inLen = 70 := by decide
/-- A state in IDLE with its new stream, and a state in STREAM, at each depth and each phase of a pair. -/
theorem witness_PushPacksOnePixel :
    (∀ d ∈ [Depth.bpp8, .bpp12, .bpp16, .bpp24],
      ({ State.reset with ctrl := ⟨d, false, .compat⟩ } : State).state = .idle ∧ (streaming d).state = .stream ∧
      (streaming d).ctrl.bpp = d) ∧
    (streaming .bpp12).phase = false ∧ afterD1.state = .stream ∧ afterD1.ctrl.bpp = .bpp12 ∧ afterD1.phase = true ∧
    (0x20FFFFFF : Word) &&& 0xFF000000#32 = 0x20000000#32 ∧ opField 0x21000000 = 2 ∧
    (0x21000000 : Word).extractLsb' 24 4 ≠ 0 ∧ State.reset.state ≠ .error ∧ inError.state = .error := by decide
theorem witness_PushStreamPacksSequence : State.reset.state = .idle ∧ [Pixel.mk 1 2 3] ≠ [] := by decide
/-- PUSH, NOP, a successful DECODE_HEADER, a read, a drain, an IN_LEN write and a second PUSH (95_test_vectors E7). -/
def interleaved : List HostStep :=
  [.write 4 0x00 0x20DEADBE, .write 4 0x00 0, .write 4 0x00 0x40000000, .read 4 0x08, .drain 1, .write 4 0x1C 3,
    .write 4 0x00 0x20123456]
theorem witness_InterleavedStreamPacksSequence :
    (withFile bmp1).state = .idle ∧ streamPixels interleaved = some [⟨0xDE, 0xAD, 0xBE⟩, ⟨0x12, 0x34, 0x56⟩] ∧
    answers (runHost interleaved (withFile bmp1))
      (fun t => t.state != .error && t.drained ++ t.out == [0xDA, 0xB1, 0x35]) = true := by decide
theorem witness_DecodeHeaderCommits :
    (withFile bmp1).state ≠ .error ∧ (withFile bmp1).params.hasBmpDecoder = true ∧ 54 ≤ (withFile bmp1).inLen.toNat ∧
    HeaderAt (withFile bmp1).inMem header1 ∧ header1.Valid := by decide
/-- IN_LEN at its least value, 54. -/
theorem witness_DecodeHeaderCommits_least :
    (withFile bmpEmpty).inLen.toNat = 54 ∧
    HeaderAt (withFile bmpEmpty).inMem { header1 with fileSize := 54, width := 0, height := 5, dataSize := 0 } := by decide
/-- A header that fails each check first. -/
theorem witness_HeaderChecksInOrder :
    (withFile bmpMB).state = .idle ∧ (withFile bmpMB).params.hasBmpDecoder = true ∧ 54 ≤ (withFile bmpMB).inLen.toNat ∧
    HeaderAt (withFile bmpMB).inMem { header1 with ident := 0x424D } ∧
    HeaderAt (withFile bmpPlanes).inMem { header1 with planes := 2 } ∧
    HeaderAt (Memory.write (withFile bmp1).inMem 0x1C 32) { header1 with bpp := 32 } ∧
    HeaderAt (Memory.write (withFile bmp1).inMem 0x1E 3) { header1 with compression := 3 } := by decide
theorem witness_ShortFileIsTruncated :
    ({ withFile bmp1 with inLen := 53 } : State).state = .idle ∧ ({ withFile bmp1 with inLen := 53 } : State).inLen.toNat < 54 ∧
    State.reset.inLen.toNat = 0 ∧ State.reset.params.hasBmpDecoder = true := by decide
theorem witness_PixelAddresses : 1 < header1.height.toNat ∧ 1 < header1.width.toNat ∧ 0 < header1.height.toNat := by decide
theorem witness_PixelRegionEnd : 0 < pixelCount header1 ∧ 3 < pixelCount header1 := by decide
theorem witness_ImageFitsCounters :
    pixelCount { header1 with width := 0 } = 0 ∧
    pixelEnd ({ withFile bmp1 with inLen := 68 } : State).ctrl header1 ≤ ({ withFile bmp1 with inLen := 68 } : State).inLen.toNat ∧
    2 ^ 31 ≤ ({ header1 with width := 0x80000000 } : Header).width.toNat ∧ 0 < pixelCount { header1 with width := 0x80000000 } ∧
    2 ^ 31 ≤ ({ header1 with height := 0x80000000 } : Header).height.toNat := by decide
/-- 95_test_vectors L2-E: IN_LEN = 68 is just enough for V-BMP-1, and 67 one too few. -/
theorem witness_ConvertPacksImage :
    ({ withFile bmp1 with inLen := 68 } : State).state = .idle ∧ HeaderAt (withFile bmp1).inMem header1 ∧ header1.Valid ∧
    54 ≤ ({ withFile bmp1 with inLen := 68 } : State).inLen.toNat ∧
    pixelEnd ({ withFile bmp1 with inLen := 68 } : State).ctrl header1 = ({ withFile bmp1 with inLen := 68 } : State).inLen.toNat ∧
    pixelCount { header1 with fileSize := 54, width := 0, height := 5, dataSize := 0 } = 0 := by decide
theorem witness_ConvertTruncatedPixels :
    ({ withFile bmp1 with inLen := 67 } : State).state = .idle ∧
    ({ withFile bmp1 with inLen := 67 } : State).params.hasBmpDecoder = true ∧
    54 ≤ ({ withFile bmp1 with inLen := 67 } : State).inLen.toNat ∧ HeaderAt (withFile bmp1).inMem header1 ∧ header1.Valid ∧
    0 < pixelCount header1 ∧
    ({ withFile bmp1 with inLen := 67 } : State).inLen.toNat < pixelEnd ({ withFile bmp1 with inLen := 67 } : State).ctrl header1 := by
  decide
theorem witness_ConvertInsideStream : afterD1.state = .stream ∧ afterD1.params.hasBmpDecoder = true := by decide
/-- A CONVERT with pixels and one without. -/
theorem witness_ConvertEqualsPushes :
    (∃ t, exec .convert (withFile bmp1) = .next t ∧ (t.state != .error && pixelCount t.hdr == 4) = true) ∧
    (∃ t, exec .convert (withFile bmpEmpty) = .next t ∧ (t.state != .error && pixelCount t.hdr == 0) = true) ∧
    (withFile bmp1).state = .idle ∧ (withFile bmpEmpty).state = .idle :=
  ⟨next_of_answers (p := fun t => t.state != .error && pixelCount t.hdr == 4) (by decide),
    next_of_answers (p := fun t => t.state != .error && pixelCount t.hdr == 0) (by decide), by decide, by decide⟩
/-- Each command that raises, with one of its codes. -/
theorem witness_CodesRaisedByCommands :
    answers (exec (.config 255 false false) State.reset) (fun t => t.state == .error && t.errcode == 8) = true ∧
    answers (exec (.config 8 false false) afterD1) (fun t => t.state == .error && t.errcode == 10) = true ∧
    answers (exec .decodeHeader State.reset) (fun t => t.state == .error && t.errcode == 5) = true ∧
    answers (exec .decodeHeader plain) (fun t => t.state == .error && t.errcode == 9) = true ∧
    answers (exec .convert (withFile bmpPlanes)) (fun t => t.state == .error && t.errcode == 2) = true ∧
    answers (exec .convert afterD1) (fun t => t.state == .error && t.errcode == 10) = true ∧
    answers (exec .convert plain) (fun t => t.state == .error && t.errcode == 9) = true ∧
    State.reset.state ≠ .error ∧ plain.state ≠ .error := by decide
/-- An error that leaves the bank, one that clears it, and one that commits it. -/
theorem witness_ErrorsArePrecise :
    State.reset.state ≠ .error ∧ answers (State.reset.execute 0x60000000) (fun t => t.state == .error) = true ∧
    answers ((withFile bmpMB).execute 0x40000000) (fun t => t.state == .error && t.errcode == 1) = true ∧
    answers (({ withFile bmp1 with inLen := 67 } : State).execute 0x50000000)
      (fun t => t.state == .error && t.hdrValid && t.errinfo == 68) = true := by decide
theorem witness_ErrorStateIgnoresCommands :
    inError.state = .error ∧ opField 0x60000000 ≠ 0xF ∧ opField 0xE0000000 ≠ 0xF ∧ (∀ x, Instr.convert ≠ .reset x) ∧
    (hosted (.read 4 0xFC) inError).host = .read 4 0xFC :: [] ∧ (hosted (.read 4 0x00) inError).host = .read 4 0x00 :: [] ∧
    (hosted (.write 4 0x1C 9) inError).host = .write 4 0x1C 9 :: [] ∧
    (hosted (.drain 3) inError).host = .drain 3 :: [] ∧ 3 ≤ inError.out.length :=
  ⟨by decide, by decide, by decide, by simp, by decide, by decide, by decide, by decide, by decide⟩
/-- The three ways a host step leaves ERROR. -/
theorem witness_OnlyResetsLeaveError :
    ∀ h ∈ [HostStep.hardwareReset, .write 4 0x00 0xFFFFFFFF, .writeCmdBytes 0 0 0 0xF0],
      (hosted h inError).state = .error ∧ answers (step (hosted h inError)) (fun t => t.state != .error) = true := by decide
theorem witness_ControlFrame :
    ∀ i ∈ [Instr.nop, .endStream, .config 24 true true],
      answers (exec i State.reset) (fun t => t.state != .error) = true := by decide
theorem witness_PushFrame :
    answers (exec (.push 1 2 3) (streaming .bpp8)) (fun _ => true) = true ∧ (streaming .bpp8).ctrl.bpp ≠ .bpp12 ∧
    (streaming .bpp8).state = .stream := by decide
theorem witness_DecoderFrame :
    ∀ i ∈ [Instr.decodeHeader, .convert], answers (exec i (withFile bmp1)) (fun t => t.state != .error) = true := by decide
/-- The cases: a stream that goes on, one that starts, a CONVERT that succeeds, a command that emits nothing, and the second
pixel of a 12 bpp pair. -/
theorem witness_EmittedBytesCounted :
    (∀ x, Instr.push 1 2 3 ≠ .reset x) ∧ answers (exec (.push 1 2 3) (streaming .bpp8)) (fun t => t.bytecnt == 1) = true ∧
    answers (exec (.push 1 2 3) { State.reset with bytecnt := 9 })
      (fun t => decide (StartsCounts (.push 1 2 3) State.reset t) && t.bytecnt == 1) = true ∧
    answers (exec .convert { withFile bmp1 with bytecnt := 9 })
      (fun t => decide (StartsCounts .convert (withFile bmp1) t) && t.bytecnt == 6) = true ∧
    answers (exec .convert { State.reset with bytecnt := 9 })
      (fun t => decide (¬StartsCounts .convert State.reset t) && t.bytecnt == 9) = true ∧
    answers (exec (.push 1 2 3) afterD1)
      (fun t => decide (¬StartsCounts (.push 1 2 3) afterD1 t) && t.bytecnt == 3) = true :=
  ⟨by simp, by decide, by decide, by decide, by decide, by decide⟩
theorem witness_HeaderBankWrittenWhole : answers (exec .decodeHeader (withFile bmp1)) (fun t => t.hdrValid) = true := by decide
theorem witness_StepKeepsRegisterInvariant :
    (hosted (.write 4 0x00 0x20123456) afterD1).Inv ∧
    answers (step (hosted (.write 4 0x00 0x20123456) afterD1)) (fun _ => true) = true := by
  refine ⟨?_, by decide⟩
  constructor <;> decide
theorem witness_StepKeepsStreamCounts :
    (hosted (.write 4 0x00 0x20123456) afterD1).CountsAgree ∧ (hosted (.write 4 0x00 0x20123456) afterD1).state = .stream ∧
    answers (step (hosted (.write 4 0x00 0x20123456) afterD1)) (fun _ => true) = true :=
  ⟨fun _ => ⟨1, by decide⟩, by decide, by decide⟩
/-- A memory that differs from the file only at IN_LEN and above. -/
theorem witness_BytesPastInLenUnread :
    (∀ a < ({ withFile bmp1 with inLen := 54 } : State).inLen.toNat,
      Memory.read (Memory.write (withFile bmp1).inMem 54 9) a = Memory.read (withFile bmp1).inMem a) ∧
    Memory.read (Memory.write (withFile bmp1).inMem 54 9) 54 ≠ Memory.read (withFile bmp1).inMem 54 := by decide

/-- 40_control R50: HDR_VALID keeps its value even when the new IN_LEN would have failed the length check. -/
theorem test_inLen_keeps_header :
    answers (step (hosted (.write 4 0x1C 3) { withFile bmp1 with hdr := header1, hdrValid := true }))
      (fun t => t.hdrValid && t.hdr == header1 && t.inLen == 3) = true := by decide

end Sys2Proof.Tests
end

section
/-!
The packer's byte counts (42_packer R70, R71) and what opening a stream, packing one pixel and closing a stream do to the
fields that the invariants of the registers and of the counters speak of.
-/
namespace Sys2Proof.Machine

/-! ## Lengths -/

theorem pack12All_length (ps : List Pixel) : (pack12All ps).length = 3 * (ps.length / 2) + ps.length % 2 := by
  induction ps using pack12All.induct with
  | case1 => rfl
  | case2 p => simp [pack12All, pack12Tail]
  | case3 p1 p2 ps ih => simp [pack12All, pack12Pair, ih]; omega

/-- 42_packer R70: `OutLen` is the length of `PackStream`. -/
theorem packStream_length (d : Depth) (ps : List Pixel) : (packStream d ps).length = outLen d ps.length := by
  cases d with
  | bpp12 => exact pack12All_length ps
  | bpp8 | bpp16 | bpp24 =>
    simp [packStream, outLen, List.length_flatMap, pack8, pack16, pack24, Nat.mul_comm]

/-- The number of bytes a PUSH emits in an open stream (42_packer R71): the second pixel of a 12 bpp pair emits two. -/
def pushLen (d : Depth) (phase : Bool) : Nat := if d = .bpp12 ∧ phase = true then 2 else outLen d 1

/-- One pixel more adds what its PUSH emits, PHASE being the parity at 12 bpp. -/
theorem outLen_succ (d : Depth) (n : Nat) :
    outLen d (n + 1) = outLen d n + pushLen d (decide (d = .bpp12) && decide (n % 2 = 1)) := by
  cases d with
  | bpp12 =>
    rcases Nat.mod_two_eq_zero_or_one n with h | h <;> simp [outLen, pushLen, h] <;> omega
  | bpp8 | bpp16 | bpp24 => simp [outLen, pushLen, Nat.mul_add]

theorem outLen_zero (d : Depth) : outLen d 0 = 0 := by cases d <;> rfl

theorem State.loadAll_length {s : State} {as : List Nat} {ps : List Pixel} (h : s.loadAll as = some ps) :
    ps.length = as.length := by
  induction as generalizing ps with
  | nil => cases h; rfl
  | cons a as ih =>
    rw [State.loadAll] at h
    split at h
    · cases h; simp [ih ‹_›]
    · cases h

theorem State.loadPixels_length {s : State} {h : Header} {ps : List Pixel} (hp : s.loadPixels h = some ps) :
    ps.length = pixelCount h := by
  simpa using State.loadAll_length hp

/-! ## Opening and closing a stream -/

theorem State.openStream_of_idle {s : State} (h : s.state = .idle) :
    s.openStream = { s.clearCounts with state := .stream } := by simp [State.openStream, h]

theorem State.openStream_of_stream {s : State} (h : s.state = .stream) : s.openStream = s := by
  simp [State.openStream, h]

/-- A stream that begins has counted nothing and has no pair open. -/
theorem State.openStream_counts_of_idle {s : State} (h : s.state = .idle) :
    s.openStream.pixcnt = 0 ∧ s.openStream.bytecnt = 0 ∧ s.openStream.phase = false := by
  rw [State.openStream_of_idle h]
  exact ⟨rfl, rfl, rfl⟩

theorem State.openStream_state {s : State} (h : s.state ≠ .error) : s.openStream.state = .stream := by
  cases hs : s.state with
  | idle => rw [State.openStream_of_idle hs]
  | stream => rw [State.openStream_of_stream hs, hs]
  | error => exact absurd hs h

theorem State.closeStream_of_stream {s : State} (h : s.state = .stream) :
    s.closeStream = { s with phase := false, hold := 0, state := .idle } := by simp [State.closeStream, h]

theorem State.closeStream_of_ne {s : State} (h : s.state ≠ .stream) : s.closeStream = s := by
  unfold State.closeStream; split <;> simp_all

theorem State.closeStream_state_ne (s : State) : s.closeStream.state ≠ .stream := by
  by_cases h : s.state = .stream
  · simp [State.closeStream_of_stream h]
  · rwa [State.closeStream_of_ne h]

/-! ## Packing one pixel -/

/-- Everything one pixel can do (42_packer R71): its bytes are emitted, and at 12 bpp it opens or closes a pair. -/
theorem State.packOne_cases (s : State) (p : Pixel) :
    ∃ bs : List Byte, bs.length = pushLen s.ctrl.bpp s.phase ∧
      ((s.ctrl.bpp ≠ .bpp12 ∧ s.packOne p = s.emit bs) ∨
       (s.ctrl.bpp = .bpp12 ∧ s.phase = false ∧ ∃ x, s.packOne p = { s.emit bs with hold := x, phase := true }) ∨
       (s.ctrl.bpp = .bpp12 ∧ s.phase = true ∧ s.packOne p = { s.emit bs with hold := 0, phase := false })) := by
  unfold State.packOne
  split
  · exact ⟨pack8 p, by simp [*, pushLen, outLen, pack8], .inl ⟨by simp [*], rfl⟩⟩
  · exact ⟨pack16 p, by simp [*, pushLen, outLen, pack16], .inl ⟨by simp [*], rfl⟩⟩
  · exact ⟨pack24 p, by simp [*, pushLen, outLen, pack24], .inl ⟨by simp [*], rfl⟩⟩
  · unfold State.push12
    split
    · exact ⟨_, by simp [*, pushLen, outLen], .inr (.inl ⟨‹_›, ‹_›, _, rfl⟩)⟩
    · have hp : s.phase = true := by simpa using ‹¬s.phase = false›
      exact ⟨_, by simp [*, pushLen], .inr (.inr ⟨‹_›, hp, rfl⟩)⟩

/-- What one pixel appends to OUT is counted in BYTECNT. -/
theorem State.packOne_emits (s : State) (p : Pixel) :
    ∃ bs : List Byte, bs.length = pushLen s.ctrl.bpp s.phase ∧ (s.packOne p).out = s.out ++ bs ∧
      (s.packOne p).bytecnt = s.bytecnt + BitVec.ofNat 32 bs.length := by
  obtain ⟨bs, hlen, ⟨-, h⟩ | ⟨-, -, x, h⟩ | ⟨-, -, h⟩⟩ := s.packOne_cases p <;>
    exact ⟨bs, hlen, by simp [h], by simp [h]⟩

/-- PHASE turns over at 12 bpp and stays at every other depth. -/
theorem State.packOne_phase (s : State) (p : Pixel) :
    (s.packOne p).phase = if s.ctrl.bpp = .bpp12 then !s.phase else s.phase := by
  obtain ⟨bs, -, ⟨hd, h⟩ | ⟨hd, hp, x, h⟩ | ⟨hd, hp, h⟩⟩ := s.packOne_cases p
  · simp [h, hd]
  · simp [h, hd, hp]
  · simp [h, hd, hp]

/-- HOLD is clear whenever PHASE is, after a pixel as before it. -/
theorem State.packOne_hold {s : State} (p : Pixel) (hs : s.phase = false → s.hold = 0) :
    (s.packOne p).phase = false → (s.packOne p).hold = 0 := by
  obtain ⟨bs, -, ⟨-, h⟩ | ⟨-, -, x, h⟩ | ⟨-, -, h⟩⟩ := s.packOne_cases p
  · simpa [h] using hs
  · simp [h]
  · simp [h]

end Sys2Proof.Machine
end

section
/-!
The register invariant `State.Inv` (10_state R9 to R12, R16, R17): one rule per named update of the state, then every
command, every host step and every step of the machine keeps it.
-/
namespace Sys2Proof.Machine

/-! ## The updates -/

theorem State.Inv.raise {s : State} (hi : s.Inv) {e : ErrKind} (he : e.code ∈ raisedCodes) (info : Word) :
    (s.raise e info).Inv :=
  { hi with
    noError := fun h => absurd rfl h
    errorCode := fun _ => he
    phaseOpen := fun hp => ⟨(hi.phaseOpen hp).1, nofun⟩ }

theorem State.Inv.clearHeaderBank {s : State} (hi : s.Inv) : s.clearHeaderBank.Inv :=
  { hi with
    bankClear := fun _ => rfl
    bankChecked := nofun
    bankAbsent := fun _ => rfl }

theorem State.Inv.commitHeader {s : State} (hi : s.Inv) {h : Header} (hp : s.params.hasBmpDecoder = true)
    (hf : headerFailure h = none) : (s.commitHeader h).Inv :=
  { hi with
    bankClear := nofun
    bankChecked := fun _ => hf
    bankAbsent := fun h => absurd hp (by simpa using h) }

theorem State.Inv.clearCounts {s : State} (hi : s.Inv) : s.clearCounts.Inv :=
  { hi with
    phaseOpen := nofun
    holdClear := fun _ => rfl }

theorem State.Inv.emitImage {s : State} (hi : s.Inv) (n : Nat) (ps : List Pixel) : (s.emitImage n ps).Inv :=
  { hi.clearCounts with }

/-- CTRL may change in IDLE, where no pair is open. -/
theorem State.Inv.setCtrl {s : State} (hi : s.Inv) (hs : s.state = .idle) (c : Ctrl) : ({ s with ctrl := c } : State).Inv :=
  { hi with phaseOpen := fun hp => absurd hs (hi.phaseOpen hp).2 }

theorem State.Inv.openStream {s : State} (hi : s.Inv) (hs : s.state ≠ .error) : s.openStream.Inv := by
  cases h : s.state with
  | idle =>
    rw [State.openStream_of_idle h]
    exact { hi.clearCounts with
      noError := fun _ => hi.noError hs
      errorCode := nofun
      phaseOpen := nofun }
  | stream => rwa [State.openStream_of_stream h]
  | error => exact absurd h hs

theorem State.Inv.closeStream {s : State} (hi : s.Inv) : s.closeStream.Inv := by
  by_cases h : s.state = .stream
  · rw [State.closeStream_of_stream h]
    exact { hi with
      noError := fun _ => hi.noError (by simp [h])
      errorCode := nofun
      phaseOpen := nofun
      holdClear := fun _ => rfl }
  · rwa [State.closeStream_of_ne h]

/-- PHASE can only turn 1 at 12 bpp, so packing a pixel in an open stream keeps the invariant. -/
theorem State.Inv.packOne {s : State} (hi : s.Inv) (hs : s.state ≠ .idle) (p : Pixel) : (s.packOne p).Inv where
  noError := by simpa using hi.noError
  errorCode := by simpa using hi.errorCode
  phaseOpen := by
    rw [State.packOne_phase, State.packOne_ctrl, State.packOne_state]
    split
    · exact fun _ => ⟨‹_›, hs⟩
    · exact hi.phaseOpen
  holdClear := State.packOne_hold p hi.holdClear
  bankClear := by simpa using hi.bankClear
  bankChecked := by simpa using hi.bankChecked
  bankAbsent := by simpa using hi.bankAbsent
  memory := by simpa using hi.memory

theorem State.Inv.hwReset {s : State} (hi : s.Inv) : s.hwReset.Inv where
  noError := fun _ => ⟨rfl, rfl⟩
  errorCode := nofun
  phaseOpen := nofun
  holdClear := fun _ => rfl
  bankClear := fun _ => rfl
  bankChecked := nofun
  bankAbsent := fun _ => rfl
  memory := hi.memory

/-! ## Commands and steps -/

theorem HeaderCommand.decoder {s : State} {i : Instr} (hc : HeaderCommand s i) : s.params.hasBmpDecoder = true := by
  obtain ⟨-, hp, -⟩ := hc
  exact hp

/-- The "must equal" checks raise codes 1 to 4 (41_bmp_decoder R53). -/
theorem headerFailure_code {h : Header} {e : ErrKind} {info : Word} (hf : headerFailure h = some (e, info)) :
    e.code ∈ raisedCodes := by
  unfold headerFailure at hf
  split_ifs at hf <;> cases hf <;> decide

theorem Effect.keeps_inv {s t : State} {i : Instr} (h : Effect s i t) (hi : s.Inv) : t.Inv := by
  cases h with
  | ignored | nop => exact hi
  | configInStream | configNoPacker | decoderAbsent | convertInStream => exact hi.raise (by decide) _
  | config bpp flip pad d hs => exact hi.setCtrl hs _
  | push r g b hs =>
    have ho : s.openStream.state ≠ .idle := by simp [State.openStream_state hs]
    exact { (hi.openStream hs).packOne ho ⟨r, g, b⟩ with }
  | endStream => exact hi.closeStream
  | reset x => exact { hi.hwReset with }
  | headerShort => exact hi.clearHeaderBank.raise (by decide) _
  | headerBad _ h e info hc hl hh hf => exact hi.clearHeaderBank.raise (headerFailure_code hf) _
  | headerGood h hc hl hh hf => exact hi.commitHeader hc.decoder hf
  | convertTruncated h hc hl hh hf => exact (hi.commitHeader hc.decoder hf).raise (by decide) _
  | convert h ps hc hl hh hf => exact (hi.commitHeader hc.decoder hf).emitImage _ _

theorem HostEffect.keeps_inv {s t : State} {x : HostStep} (h : HostEffect s x t) (hi : s.Inv) : t.Inv := by
  cases h with
  | command _ w i _ hw hd he => exact he.keeps_inv hi
  | illegal => exact hi.raise (by decide) _
  | illegalIgnored | writeIgnored => exact hi
  | inLen | read | drain => exact { hi with }
  | setIn a b ha => exact { hi with memory := Memory.write_wf hi.memory ha }
  | hardwareReset => exact hi.hwReset

/-- Settles O55: each host step keeps the invariant, and taking it off the host's list changes no register. -/
theorem stepKeepsRegisterInvariant : Obligations.StepKeepsRegisterInvariant := by
  intro s t hi h
  rcases step_cases h with ⟨-, rfl⟩ | ⟨x, rest, -, hx⟩
  · exact hi
  · exact hx.keeps_inv { hi with }

end Sys2Proof.Machine
end

section
/-!
The counters of a stream: `CountsAgree` at every step (10_state R13, R14, 42_packer R70), and the bytes and pixels that each
command counts.
-/
namespace Sys2Proof.Machine

theorem HeaderCommand.convert_idle {s : State} (hc : HeaderCommand s .convert) : s.state = .idle := by
  obtain ⟨-, -, h | ⟨-, h⟩⟩ := hc
  · cases h
  · exact h

/-! ## The counters of an open stream -/

theorem State.countsAgree_of_ne {s : State} (h : s.state ≠ .stream) : s.CountsAgree := fun hs => absurd hs h

/-- A stream that begins has packed no pixel. -/
theorem State.CountsAgree.openStream {s : State} (hc : s.CountsAgree) : s.openStream.CountsAgree := by
  cases hs : s.state with
  | idle =>
    rw [State.openStream_of_idle hs]
    exact fun _ => ⟨0, rfl, by simp [outLen_zero], by simp⟩
  | stream => rwa [State.openStream_of_stream hs]
  | error => exact State.countsAgree_of_ne (by simp [State.openStream, hs])

/-- One pixel more: PIXCNT counts it, BYTECNT its bytes, and at 12 bpp the parity turns over with PHASE. -/
theorem State.CountsAgree.packOne {s : State} (hc : s.CountsAgree) (p : Pixel) : (s.packOne p).countPixel.CountsAgree := by
  intro hs
  obtain ⟨n, hpix, hbyte, hphase⟩ := hc (by simpa using hs)
  obtain ⟨bs, hlen, -, hcnt⟩ := s.packOne_emits p
  refine ⟨n + 1, ?_, ?_, ?_⟩
  · simp [hpix, BitVec.ofNat_add]
  · simp [hcnt, hbyte, hlen, hphase, outLen_succ, BitVec.ofNat_add]
  · have hpar : decide ((n + 1) % 2 = 1) = !decide (n % 2 = 1) := by
      rw [← decide_not, decide_eq_decide]; omega
    by_cases hd : s.ctrl.bpp = .bpp12
    · simp [State.packOne_phase, hd, hphase, hpar]
    · simp [State.packOne_phase, hd, hphase]

theorem Effect.keeps_countsAgree {s t : State} {i : Instr} (h : Effect s i t) (hc : s.CountsAgree) : t.CountsAgree := by
  cases h with
  | ignored | nop | headerGood => exact hc
  | configInStream | configNoPacker | decoderAbsent | convertInStream | headerShort | headerBad | convertTruncated =>
    exact State.countsAgree_of_ne nofun
  | config bpp flip pad d hs => exact State.countsAgree_of_ne (by simp [hs])
  | push => exact hc.openStream.packOne _
  | endStream => exact State.countsAgree_of_ne s.closeStream_state_ne
  | reset => exact State.countsAgree_of_ne nofun
  | convert h ps hcmd => exact State.countsAgree_of_ne (by simp [hcmd.convert_idle])

theorem HostEffect.keeps_countsAgree {s t : State} {x : HostStep} (h : HostEffect s x t) (hc : s.CountsAgree) :
    t.CountsAgree := by
  cases h with
  | command _ w i _ hw hd he => exact he.keeps_countsAgree hc
  | illegal | hardwareReset => exact State.countsAgree_of_ne nofun
  | illegalIgnored | writeIgnored | inLen | read | setIn | drain => exact hc

/-- Settles O56: each host step keeps the counts, and taking it off the host's list changes no counter. -/
theorem stepKeepsStreamCounts : Obligations.StepKeepsStreamCounts := by
  intro s t hc h
  rcases step_cases h with ⟨-, rfl⟩ | ⟨x, rest, -, hx⟩
  · exact hc
  · exact hx.keeps_countsAgree hc

/-! ## What each command counts -/

/-- The bytes and pixels that the command `i` emits on its way from `s` to `t` are counted (10_state R13, R14). -/
def CountsEmitted (i : Instr) (s t : State) : Prop :=
  ∃ (bs : List Byte) (n : Nat), t.out = s.out ++ bs ∧
    (StartsCounts i s t → t.bytecnt = BitVec.ofNat 32 bs.length ∧ t.pixcnt = BitVec.ofNat 32 n) ∧
    (¬StartsCounts i s t → t.bytecnt = s.bytecnt + BitVec.ofNat 32 bs.length ∧ t.pixcnt = s.pixcnt + BitVec.ofNat 32 n) ∧
    (bs.length = outLen s.ctrl.bpp n ∨ (n = 1 ∧ s.ctrl.bpp = .bpp12 ∧ s.phase = true ∧ s.state = .stream ∧ bs.length = 2))

theorem startsCounts_push {s t : State} {r g b : Byte} : StartsCounts (.push r g b) s t ↔ s.state = .idle := by
  simp [StartsCounts, Instr.op]

/-- Only a PUSH, and a CONVERT that does not end in ERROR, can start the counters. -/
theorem not_startsCounts {i : Instr} {s t : State} (hp : i.op ≠ .push) (hc : i ≠ .convert ∨ t.state = .error) :
    ¬StartsCounts i s t := by
  rintro ⟨-, h | ⟨rfl, ht⟩⟩
  · exact hp h
  · exact hc.elim (fun hn => hn rfl) ht

/-- A command that leaves OUT and the counters alone has emitted nothing. -/
theorem CountsEmitted.of_unchanged {i : Instr} {s t : State} (hn : ¬StartsCounts i s t) (hout : t.out = s.out)
    (hbyte : t.bytecnt = s.bytecnt) (hpix : t.pixcnt = s.pixcnt) : CountsEmitted i s t :=
  ⟨[], 0, by simp [hout], fun h => absurd h hn, fun _ => by simp [hbyte, hpix], .inl (by simp [outLen_zero])⟩

theorem HeaderCommand.op_ne_push {s : State} {i : Instr} (hc : HeaderCommand s i) : i.op ≠ .push := by
  obtain ⟨-, -, rfl | ⟨rfl, -⟩⟩ := hc <;> exact nofun

theorem countsEmitted_push {s : State} (r g b : Byte) (hs : s.state ≠ .error) :
    CountsEmitted (.push r g b) s (s.openStream.packOne ⟨r, g, b⟩).countPixel := by
  obtain ⟨bs, hlen, hout, hcnt⟩ := s.openStream.packOne_emits ⟨r, g, b⟩
  rw [State.openStream_ctrl] at hlen
  rw [State.openStream_out] at hout
  refine ⟨bs, 1, hout, ?_⟩
  rw [State.countPixel_bytecnt, State.countPixel_pixcnt, State.packOne_pixcnt, hcnt, startsCounts_push]
  cases h : s.state with
  | idle =>
    obtain ⟨hpix, hbyte, hphase⟩ := State.openStream_counts_of_idle h
    rw [hphase] at hlen
    exact ⟨fun _ => by simp [hbyte, hpix], fun hn => absurd rfl hn, .inl (by simp [hlen, pushLen])⟩
  | stream =>
    rw [State.openStream_of_stream h] at hlen ⊢
    refine ⟨nofun, fun _ => ⟨rfl, rfl⟩, ?_⟩
    by_cases hp : s.ctrl.bpp = .bpp12 ∧ s.phase = true
    · exact .inr ⟨rfl, hp.1, hp.2, rfl, by simp [hlen, pushLen, hp]⟩
    · exact .inl (by rw [hlen, pushLen, if_neg hp])
  | error => exact absurd h hs

theorem countsEmitted_convert {s : State} {h : Header} {ps : List Pixel} (hs : s.state = .idle)
    (hp : (s.commitHeader h).loadPixels h = some ps) :
    CountsEmitted .convert s ((s.commitHeader h).emitImage (pixelCount h) ps) := by
  have hst : StartsCounts .convert s ((s.commitHeader h).emitImage (pixelCount h) ps) :=
    ⟨hs, .inr ⟨rfl, by simp [hs]⟩⟩
  exact ⟨packStream s.ctrl.bpp ps, pixelCount h, by simp, fun _ => by simp, fun hn => absurd hst hn,
    .inl (by rw [packStream_length, State.loadPixels_length hp])⟩

/-- Every command but RESET counts what it emits. -/
theorem Effect.countsEmitted {s t : State} {i : Instr} (h : Effect s i t) (hr : ∀ x, i ≠ .reset x) :
    CountsEmitted i s t := by
  cases h with
  | ignored i hs =>
    exact .of_unchanged (fun h => nomatch hs.symm.trans h.1) rfl rfl rfl
  | nop | configInStream | configNoPacker | config | headerGood =>
    exact .of_unchanged (not_startsCounts nofun (.inl nofun)) rfl rfl rfl
  | push r g b hs => exact countsEmitted_push r g b hs
  | endStream =>
    exact .of_unchanged (not_startsCounts nofun (.inl nofun)) (by simp) (by simp) (by simp)
  | reset x => exact absurd rfl (hr x)
  | decoderAbsent _ hs hp hi =>
    have ho : i.op ≠ .push := by rcases hi with rfl | rfl <;> exact nofun
    exact .of_unchanged (not_startsCounts ho (.inr rfl)) rfl rfl rfl
  | convertInStream | convertTruncated =>
    exact .of_unchanged (not_startsCounts nofun (.inr rfl)) rfl rfl rfl
  | headerShort _ hc => exact .of_unchanged (not_startsCounts hc.op_ne_push (.inr rfl)) rfl rfl rfl
  | headerBad _ h e info hc => exact .of_unchanged (not_startsCounts hc.op_ne_push (.inr rfl)) rfl rfl rfl
  | convert h ps hc hl hh hf ht hp => exact countsEmitted_convert hc.convert_idle hp

/-- Settles O53, from what each effect of a command emits. -/
theorem emittedBytesCounted : Obligations.EmittedBytesCounted :=
  fun _ _ _ hr h => (exec_cases h).countsEmitted hr

end Sys2Proof.Machine
end

section
/-!
The register port (10_state R18, R19): what each access does and what each register reads as.
-/
namespace Sys2Proof.Machine

/-! ## Accesses -/

theorem step_of_host {s : State} {x : HostStep} {rest : List HostStep} (h : s.host = x :: rest) :
    step s = State.hostStep { s with host := rest } x := by
  simp only [step, h]

/-- The accesses the port refuses. -/
theorem portAccessOk_eq_false {size offset : Nat} :
    portAccessOk size offset = false ↔ size ≠ 4 ∨ offset % 4 ≠ 0 ∨ 0x100 ≤ offset := by
  simp [portAccessOk, imp_iff_not_or, or_assoc]

theorem State.portWrite_eq (s : State) (size offset : Nat) (v : Word) :
    s.portWrite size offset v =
      if size ≠ 4 ∨ offset % 4 ≠ 0 ∨ 0x100 ≤ offset then .refused .portAccess
      else if offset = 0x00 then s.execute v
      else if offset = 0x1C then .next (s.writeInLen v)
      else .next s := by
  simp only [← portAccessOk_eq_false, State.portWrite]
  cases portAccessOk size offset <;> rfl

theorem State.portRead_eq (s : State) (size offset : Nat) :
    s.portRead size offset =
      if size ≠ 4 ∨ offset % 4 ≠ 0 ∨ 0x100 ≤ offset then .refused .portAccess
      else .next { s with readData := s.readData ++ [s.regRead offset] } := by
  simp only [← portAccessOk_eq_false, State.portRead]
  cases portAccessOk size offset <;> rfl

/-- CMD and the reserved offsets read 0 (10_state R18). -/
theorem State.regRead_of_reserved (s : State) {offset : Nat} (h : offset = 0x00 ∨ 0x58 ≤ offset) : s.regRead offset = 0 := by
  rcases h with rfl | h
  · rfl
  · rw [State.regRead] <;> omega

/-- Settles O12, by the equations of the port's two accesses. -/
theorem registerPortAccesses : Obligations.RegisterPortAccesses := by
  refine ⟨fun s size offset v rest h => ?_, fun s size offset rest h => ?_, fun s _ h => s.regRead_of_reserved h⟩
  · exact (step_of_host h).trans (State.portWrite_eq _ size offset v)
  · exact (step_of_host h).trans (State.portRead_eq _ size offset)

/-! ## Values -/

/-- CTRL by its fields; bits 31:10 are 0 (10_state R9). -/
theorem Ctrl.word_toNat (c : Ctrl) :
    c.word.toNat = c.bpp.bits.toNat + 256 * c.flip.toNat + 512 * c.padMode.bit.toNat := by
  obtain ⟨bpp, flip, pad⟩ := c
  cases bpp <;> cases flip <;> cases pad <;> rfl

/-- STATUS by its fields; bits 31:5 are 0 (10_state R10). -/
theorem State.statusWord_toNat (s : State) :
    s.statusWord.toNat =
      s.state.bits.toNat + 4 * s.phase.toNat + 8 * s.hdrValid.toNat + 16 * s.params.hasBmpDecoder.toNat := by
  unfold State.statusWord
  cases s.state <;> cases s.phase <;> cases s.hdrValid <;> cases s.params.hasBmpDecoder <;> rfl

/-- ERRCODE reads its eight bits; bits 31:8 are 0 (10_state R11). -/
theorem State.errcodeWord_toNat (s : State) : s.errcodeWord.toNat = s.errcode.toNat := by
  have := s.errcode.isLt
  simp [State.errcodeWord, place]
  omega

/-- Settles O13: CTRL, STATUS and ERRCODE by their fields, every other register by the field it shows. -/
theorem registerReadValues : Obligations.RegisterReadValues := by
  intro s
  refine ⟨?_, ?_, s.errcodeWord_toNat, rfl, rfl, rfl, rfl, rfl⟩
  · exact s.ctrl.word_toNat.trans (by cases s.ctrl.bpp <;> cases s.ctrl.padMode <;> rfl)
  · exact s.statusWord_toNat.trans (by cases s.state <;> rfl)

end Sys2Proof.Machine
end

section
/-!
The memory and its interface (20_memory): the byte-wide bus, the host's changes of IN and drains of OUT, what every command
leaves to the host, and that no command reads IN at or above IN_LEN.
-/
namespace Sys2Proof.Machine

/-! ## The byte-wide bus and the host's steps -/

/-- The assembled word is the one whose number is the little-endian sum of the bytes (20_memory R28). -/
theorem wordOfBytes_eq_of_toNat {w : Word} {b0 b1 b2 b3 : Byte}
    (hw : w.toNat = b0.toNat + 256 * b1.toNat + 65536 * b2.toNat + 16777216 * b3.toNat) : wordOfBytes b0 b1 b2 b3 = w := by
  apply BitVec.eq_of_toNat_eq
  rw [toNat_wordOfBytes, hw]
  omega

/-- Settles O11: both host steps execute the same word. -/
theorem byteBusIsLittleEndian : Obligations.ByteBusIsLittleEndian := by
  intro s b0 b1 b2 b3 w rest hs hw
  obtain rfl := wordOfBytes_eq_of_toNat hw
  exact step_of_host hs

/-- Settles O15: the bytes taken and left are the two parts of OUT at `k`. -/
theorem drainTakesOldestBytes : Obligations.DrainTakesOldestBytes := by
  intro s k rest hs
  rw [step_of_host hs]
  refine ⟨fun hk => ⟨s.out.take k, s.out.drop k, List.length_take_of_le hk, (List.take_append_drop k s.out).symm, ?_⟩,
    fun hk => ?_⟩
  · exact if_pos hk
  · exact if_neg (Nat.not_le_of_lt hk)

/-- Settles O16, by the reading and canonical-form laws of a memory write. -/
theorem hostChangesOneByte : Obligations.HostChangesOneByte := by
  intro s a b rest hs hm
  rw [step_of_host hs]
  refine ⟨fun ha => ⟨Memory.write s.inMem a b, ?_, Memory.write_wf hm ha, Memory.read_write hm⟩, fun ha => ?_⟩
  · exact if_pos ha
  · exact if_neg (Nat.not_lt_of_le ha)

/-! ## What commands and steps leave to the host -/

/-- The fields that belong to the host or the build, and the memory: what no command changes (10_state R15, 20_memory R22). -/
structure State.SameHostsOwn (s t : State) : Prop where
  inLen : t.inLen = s.inLen
  params : t.params = s.params
  host : t.host = s.host
  readData : t.readData = s.readData
  drained : t.drained = s.drained
  inMem : t.inMem = s.inMem

theorem Effect.sameHostsOwn {s t : State} {i : Instr} (h : Effect s i t) : s.SameHostsOwn t := by
  cases h with
  | push => constructor <;> simp
  | endStream => constructor <;> simp
  | ignored | nop | configInStream | configNoPacker | config | reset | decoderAbsent | convertInStream | headerShort
  | headerBad | headerGood | convertTruncated | convert => constructor <;> rfl

/-- Settles O18, from what each effect of a command leaves. -/
theorem commandsLeaveHostsOwn : Obligations.CommandsLeaveHostsOwn := by
  intro i s t h
  obtain ⟨hlen, hparams, hhost, hread, hdrained, hmem⟩ := (exec_cases h).sameHostsOwn
  exact ⟨hlen, hparams, hhost, hread, hdrained, fun a => by rw [hmem]⟩

theorem HostEffect.params_eq {s t : State} {x : HostStep} (h : HostEffect s x t) : t.params = s.params := by
  cases h with
  | command _ w i _ hw hd he => exact he.sameHostsOwn.params
  | illegal | illegalIgnored | inLen | writeIgnored | read | setIn | drain | hardwareReset => rfl

/-- Only a `setIn` step changes the memory. -/
theorem HostEffect.inMem_eq {s t : State} {x : HostStep} (h : HostEffect s x t) (hx : ∀ a b, x ≠ .setIn a b) :
    t.inMem = s.inMem := by
  cases h with
  | command _ w i _ hw hd he => exact he.sameHostsOwn.inMem
  | setIn a b => exact absurd rfl (hx a b)
  | illegal | illegalIgnored | inLen | writeIgnored | read | drain | hardwareReset => rfl

/-- Settles O17, from what each host step leaves. -/
theorem onlyHostChangesIn : Obligations.OnlyHostChangesIn := by
  intro s t h
  rcases step_cases h with ⟨-, rfl⟩ | ⟨x, rest, hs, hx⟩
  · exact ⟨rfl, fun _ _ => rfl⟩
  · refine ⟨hx.params_eq, fun hn a => ?_⟩
    have hset : ∀ a b, x ≠ .setIn a b := by rintro a b rfl; exact hn a b rest hs
    rw [hx.inMem_eq hset]

/-! ## Every command completes -/

/-- Every row of the file lies among the `height` rows (41_bmp_decoder R57). -/
theorem fileRow_le {c : Ctrl} {h : Header} {i : Nat} (hi : i < h.height.toNat) : fileRow c h i ≤ h.height.toNat - 1 := by
  unfold fileRow
  split <;> omega

/-- Every pixel of the image lies below `End` (41_bmp_decoder R59). -/
theorem pixAddr_add_three_le_pixelEnd {c : Ctrl} {h : Header} {k : Nat} (hk : k < pixelCount h) :
    pixAddr c h k + 3 ≤ pixelEnd c h := by
  have hw : 0 < h.width.toNat := Nat.pos_of_mul_pos_right (Nat.zero_lt_of_lt hk)
  have hrow : k / h.width.toNat < h.height.toNat := Nat.div_lt_of_lt_mul hk
  have hcol : k % h.width.toNat < h.width.toNat := Nat.mod_lt k hw
  have hoff : fileRow c h (k / h.width.toNat) * stride c h ≤ (h.height.toNat - 1) * stride c h :=
    Nat.mul_le_mul_right _ (fileRow_le hrow)
  unfold pixAddr pixelEnd
  omega

/-- When the pixel region ends within IN_LEN, the whole image loads. -/
theorem State.loadPixels_of_not_truncated {s : State} {h : Header}
    (ht : ¬(0 < pixelCount h ∧ s.inLen.toNat < pixelEnd s.ctrl h)) : ∃ ps, s.loadPixels h = some ps := by
  refine ⟨_, State.loadAll_of_lt fun a ha => ?_⟩
  obtain ⟨k, hk, rfl⟩ := List.mem_map.1 ha
  have hk : k < pixelCount h := List.mem_range.1 hk
  have hend := pixAddr_add_three_le_pixelEnd (c := s.ctrl) hk
  omega

theorem State.convertPixels_completes (s : State) (h : Header) : ∃ t, s.convertPixels h = .next t := by
  unfold State.convertPixels
  split
  · exact ⟨_, rfl⟩
  · have ht : ¬s.truncated h = true := ‹_›
    obtain ⟨ps, hps⟩ := State.loadPixels_of_not_truncated (mt State.truncated_iff.2 ht)
    exact ⟨_, by rw [hps]⟩

theorem State.decodeHeaderChecked_completes (s : State) {k : State → Header → Result} (hk : ∀ t h, ∃ u, k t h = .next u) :
    ∃ t, s.decodeHeaderChecked k = .next t := by
  rcases s.decodeHeaderChecked_cases k with ⟨-, e⟩ | ⟨-, h, -, _, _, -, e⟩ | ⟨-, h, -, -, e⟩
  · exact ⟨_, e⟩
  · exact ⟨_, e⟩
  · obtain ⟨u, hu⟩ := hk (s.commitHeader h) h
    exact ⟨u, e.trans hu⟩

theorem State.unlessError_completes (s : State) {run : Result} (hr : ∃ t, run = .next t) : ∃ t, s.unlessError run = .next t := by
  by_cases hs : s.state = .error
  · exact ⟨s, State.unlessError_of_error hs⟩
  · rwa [State.unlessError_of_ne hs]

theorem State.withDecoder_completes (s : State) (i : Instr) {run : Result} (hr : ∃ t, run = .next t) :
    ∃ t, s.withDecoder i run = .next t := by
  cases hp : s.params.hasBmpDecoder with
  | true => rwa [State.withDecoder_of_present hp]
  | false => exact ⟨_, State.withDecoder_of_absent hp⟩

/-- Settles O58: a command reads IN only after its checks have found the addresses below IN_LEN. -/
theorem everyCommandCompletes : Obligations.EveryCommandCompletes := by
  intro i s
  cases i with
  | nop | push | endStream => exact s.unlessError_completes ⟨_, rfl⟩
  | config bpp flip pad =>
    apply s.unlessError_completes
    split
    · exact ⟨_, rfl⟩
    · split <;> exact ⟨_, rfl⟩
  | decodeHeader =>
    exact s.unlessError_completes (s.withDecoder_completes _ (s.decodeHeaderChecked_completes fun t _ => ⟨t, rfl⟩))
  | convert =>
    apply s.unlessError_completes
    apply s.withDecoder_completes
    split
    · exact ⟨_, rfl⟩
    · exact s.decodeHeaderChecked_completes State.convertPixels_completes
  | reset => exact ⟨_, rfl⟩

/-! ## IN at or above IN_LEN is never read -/

/-- The state with another input memory. -/
def State.withIn (s : State) (m : Memory) : State := { s with inMem := m }

@[simp] theorem State.withIn_state (s : State) (m : Memory) : (s.withIn m).state = s.state := rfl
@[simp] theorem State.withIn_params (s : State) (m : Memory) : (s.withIn m).params = s.params := rfl
@[simp] theorem State.withIn_ctrl (s : State) (m : Memory) : (s.withIn m).ctrl = s.ctrl := rfl
@[simp] theorem State.withIn_phase (s : State) (m : Memory) : (s.withIn m).phase = s.phase := rfl
@[simp] theorem State.withIn_inLen (s : State) (m : Memory) : (s.withIn m).inLen = s.inLen := rfl

/-- The memory `m` holds the bytes of IN that a command may read. -/
def State.SameBelowInLen (s : State) (m : Memory) : Prop :=
  ∀ a < s.inLen.toNat, Memory.read m a = Memory.read s.inMem a

/-! ### Changes of the block commute with the other memory -/

theorem State.withIn_openStream (s : State) (m : Memory) : (s.withIn m).openStream = s.openStream.withIn m := by
  unfold State.openStream
  rw [State.withIn_state]
  split <;> rfl

theorem State.withIn_closeStream (s : State) (m : Memory) : (s.withIn m).closeStream = s.closeStream.withIn m := by
  unfold State.closeStream
  rw [State.withIn_state]
  split <;> rfl

theorem State.withIn_push12 (s : State) (m : Memory) (p : Pixel) : (s.withIn m).push12 p = (s.push12 p).withIn m := by
  unfold State.push12
  rw [State.withIn_phase]
  split <;> rfl

theorem State.withIn_packOne (s : State) (m : Memory) (p : Pixel) : (s.withIn m).packOne p = (s.packOne p).withIn m := by
  unfold State.packOne
  rw [State.withIn_ctrl]
  split
  · rfl
  · rfl
  · rfl
  · exact s.withIn_push12 m p

theorem State.withIn_unlessError (s : State) (m : Memory) {run' run : Result} (hr : run' = mapNext (·.withIn m) run) :
    (s.withIn m).unlessError run' = mapNext (·.withIn m) (s.unlessError run) := by
  unfold State.unlessError
  rw [State.withIn_state]
  split
  · rfl
  · exact hr
  · exact hr

theorem State.withIn_withDecoder (s : State) (m : Memory) (i : Instr) {run' run : Result}
    (hr : run' = mapNext (·.withIn m) run) :
    (s.withIn m).withDecoder i run' = mapNext (·.withIn m) (s.withDecoder i run) := by
  unfold State.withDecoder
  rw [State.withIn_params]
  split
  · exact hr
  · rfl

/-! ### Reads agree -/

section
variable {s : State} {m : Memory}

/-- The key fact: a byte below IN_LEN is the same in both, and no other byte is handed out (20_memory R23). -/
theorem State.SameBelowInLen.inRead (hm : s.SameBelowInLen m) (a : Nat) : (s.withIn m).inRead a = s.inRead a := by
  unfold State.inRead
  rw [State.withIn_inLen]
  split
  · exact congrArg some (hm a ‹_›)
  · rfl

theorem State.SameBelowInLen.le16 (hm : s.SameBelowInLen m) (a : Nat) : (s.withIn m).le16 a = s.le16 a := by
  simp only [State.le16, hm.inRead]

theorem State.SameBelowInLen.le32 (hm : s.SameBelowInLen m) (a : Nat) : (s.withIn m).le32 a = s.le32 a := by
  simp only [State.le32, hm.inRead]

theorem State.SameBelowInLen.readHeader (hm : s.SameBelowInLen m) : (s.withIn m).readHeader = s.readHeader := by
  simp only [State.readHeader, hm.le16, hm.le32]

theorem State.SameBelowInLen.loadPixel (hm : s.SameBelowInLen m) (a : Nat) : (s.withIn m).loadPixel a = s.loadPixel a := by
  simp only [State.loadPixel, hm.inRead]

theorem State.SameBelowInLen.loadAll (hm : s.SameBelowInLen m) (as : List Nat) : (s.withIn m).loadAll as = s.loadAll as := by
  induction as with
  | nil => rfl
  | cons a as ih => simp only [State.loadAll, hm.loadPixel, ih]

theorem State.SameBelowInLen.loadPixels (hm : s.SameBelowInLen m) (h : Header) :
    (s.withIn m).loadPixels h = s.loadPixels h := hm.loadAll _

theorem State.SameBelowInLen.convertPixels (hm : s.SameBelowInLen m) (h : Header) :
    (s.withIn m).convertPixels h = mapNext (·.withIn m) (s.convertPixels h) := by
  have ht : (s.withIn m).truncated h = s.truncated h := rfl
  unfold State.convertPixels
  rw [ht, hm.loadPixels]
  split
  · rfl
  · split <;> rfl

/-- The header decode answers the same but for the memory when what follows it does. -/
theorem State.SameBelowInLen.decodeHeaderChecked (hm : s.SameBelowInLen m) {k : State → Header → Result}
    (hk : ∀ h, k ((s.commitHeader h).withIn m) h = mapNext (·.withIn m) (k (s.commitHeader h) h)) :
    (s.withIn m).decodeHeaderChecked k = mapNext (·.withIn m) (s.decodeHeaderChecked k) := by
  unfold State.decodeHeaderChecked
  rw [State.withIn_inLen, hm.readHeader]
  split
  · rfl
  · split
    · rfl
    · split
      · rfl
      · exact hk _

end

/-- Settles O59: every command's reads of IN agree, and everything else it does commutes with the other memory. -/
theorem bytesPastInLenUnread : Obligations.BytesPastInLenUnread := by
  intro i s m hm
  replace hm : s.SameBelowInLen m := hm
  change exec i (s.withIn m) = mapNext (·.withIn m) (exec i s)
  cases i with
  | nop => exact s.withIn_unlessError m rfl
  | config bpp flip pad =>
    apply s.withIn_unlessError m
    rw [State.withIn_state]
    split
    · rfl
    · split <;> rfl
  | push r g b =>
    refine s.withIn_unlessError m ?_
    rw [State.withIn_openStream, State.withIn_packOne]
    rfl
  | endStream => exact s.withIn_unlessError m (by rw [State.withIn_closeStream]; rfl)
  | decodeHeader =>
    exact s.withIn_unlessError m (s.withIn_withDecoder m _ (hm.decodeHeaderChecked fun _ => rfl))
  | convert =>
    apply s.withIn_unlessError m
    apply s.withIn_withDecoder m
    rw [State.withIn_state]
    split
    · rfl
    · have hc : ∀ h, (s.commitHeader h).SameBelowInLen m := fun _ => hm
      exact hm.decodeHeaderChecked fun h => (hc h).convertPixels h
  | reset => rfl

end Sys2Proof.Machine
end

section
/-!
The opcode map and the codec (30_encoding R37 to R41): which row an OP field names, that the bits a row matches settle its
OP field, that a row's fields and its word determine each other, and what a command word decodes to, row by row.
-/
namespace Sys2Proof

/-! ## Rows -/

theorem Op.encodes_iff {o : Op} {w : Word} : o.encodes w = true ↔ w &&& o.mask = o.pattern := beq_iff_eq

theorem opOfField_eq_some {f : BitVec 4} {o : Op} : opOfField f = some o ↔ f = opField o.pattern := by
  refine ⟨fun h => ?_, fun h => h ▸ Laws.RowWord.opOfField_pattern o⟩
  revert f
  cases o <;> decide

/-- The OP fields 0x6 to 0xE name no row (30_encoding R38). -/
theorem opOfField_eq_none {f : BitVec 4} : opOfField f = none ↔ 6 ≤ f.toNat ∧ f.toNat ≤ 14 := by
  revert f
  decide

theorem opField_and (w m : Word) : opField (w &&& m) = opField w &&& opField m := BitVec.extractLsb'_and

/-- Every mask covers the OP field, so a word that matches a row has the row's OP field. -/
theorem opField_of_matches {o : Op} {w : Word} (h : w &&& o.mask = o.pattern) : opField w = opField o.pattern := by
  have hm : opField o.mask = BitVec.allOnes 4 := by cases o <;> decide
  rw [← h, opField_and, hm, BitVec.and_allOnes]

theorem opOfField_of_matches {o : Op} {w : Word} (h : w &&& o.mask = o.pattern) : opOfField (opField w) = some o :=
  opOfField_eq_some.2 (opField_of_matches h)

/-- No two rows share an OP field. -/
theorem Op.eq_of_opField_eq {o o' : Op} (h : opField o.pattern = opField o'.pattern) : o = o' :=
  Option.some.inj ((opOfField_eq_some.2 rfl).symm.trans (opOfField_eq_some.2 h))

theorem Op.opField_le_five {o : Op} (h : o ≠ .reset) : (opField o.pattern).toNat ≤ 5 := by
  revert h
  cases o <;> decide

/-- The rows of the decoder are those with OP 4 and 5 (30_encoding R41). -/
theorem Op.needsDecoder_iff {o : Op} : o.needsDecoder = true ↔ opField o.pattern = 4 ∨ opField o.pattern = 5 := by
  cases o <;> decide

/-- RESET's mask is its OP field alone, so every word with that field matches it (30_encoding R40). -/
theorem matches_reset {w : Word} (h : opField w = 0xF) : w &&& Op.reset.mask = Op.reset.pattern := by
  have hmask : w &&& Op.reset.mask = place 28 (opField w) := by
    refine BitVec.eq_of_getLsbD_eq fun k hk => ?_
    simp only [Op.mask, opField, place]
    interval_cases k <;> simp
  rw [hmask, h]
  decide

/-! ## Fields -/

/-- A field reads back from its own place. -/
@[simp] theorem extractLsb'_place_self {n lo : Nat} (x : BitVec n) (h : lo + n ≤ 32) : (place lo x).extractLsb' lo n = x := by
  refine BitVec.eq_of_getLsbD_eq fun k hk => ?_
  simp [place, hk, show lo + k < 32 by omega]

/-- A field's place leaves the bits below and above it zero. -/
@[simp] theorem extractLsb'_place_disjoint {n m lo start : Nat} (x : BitVec n) (h : lo + n ≤ start ∨ start + m ≤ lo) :
    (place lo x).extractLsb' start m = 0#m := by
  refine BitVec.eq_of_getLsbD_eq fun k hk => ?_
  rcases h with h | h
  · simp [place, BitVec.getLsbD_of_ge x (start + k - lo) (by omega)]
  · simp [place, show start + k < lo by omega]

/-- A command is the fields of its own word. -/
theorem fields_encode (i : Instr) : i.op.fields (encode i) = i := by
  cases i with
  | nop | endStream | decodeHeader | convert => rfl
  | config bpp flip pad =>
    have hbpp : (encode (.config bpp flip pad)).extractLsb' 0 8 = bpp := by simp [encode, BitVec.extractLsb'_or]
    have hflip : (encode (.config bpp flip pad)).getLsbD 8 = flip := by simp [encode, place]
    have hpad : (encode (.config bpp flip pad)).getLsbD 9 = pad := by simp [encode, place]
    rw [Instr.op, Op.fields, hbpp, hflip, hpad]
  | push r g b => simp [Instr.op, Op.fields, encode, BitVec.extractLsb'_or]
  | reset x => simp [Instr.op, Op.fields, encode, BitVec.extractLsb'_or]

/-- The word of a row's fields is the row's pattern with the word's own bits outside the mask. -/
theorem encode_fields (o : Op) (w : Word) : encode (o.fields w) = o.pattern ||| (w &&& ~~~o.mask) := by
  cases o with
  | nop | endStream | decodeHeader | convert => simp [Op.fields, encode, place, Op.mask, Op.pattern]
  | config | push | reset =>
    refine BitVec.eq_of_getLsbD_eq fun k hk => ?_
    simp only [Op.fields, encode, place, Op.mask, Op.pattern]
    interval_cases k <;> simp

/-- A word is the word of its fields in the row it matches: every bit is fixed by the row or lies in a field. -/
theorem encode_fields_of_matches {o : Op} {w : Word} (h : w &&& o.mask = o.pattern) : encode (o.fields w) = w := by
  rw [encode_fields, ← h, ← BitVec.and_or_distrib_left, BitVec.or_not_self, BitVec.and_allOnes]

/-- The laws of the family `Laws.RowWord`, for every command. -/
theorem rowWord (i : Instr) : Laws.RowWord.Statement i := by
  cases i with
  | nop => exact Laws.RowWord.nop
  | config bpp flip pad => exact Laws.RowWord.config bpp flip pad
  | push r g b => exact Laws.RowWord.push r g b
  | endStream => exact Laws.RowWord.endStream
  | decodeHeader => exact Laws.RowWord.decodeHeader
  | convert => exact Laws.RowWord.convert
  | reset x => exact Laws.RowWord.reset x

/-- A command's word matches its row. -/
theorem encode_matches (i : Instr) : encode i &&& i.op.mask = i.op.pattern := Op.encodes_iff.1 (rowWord i).1

@[simp] theorem Op.op_fields (o : Op) (w : Word) : (o.fields w).op = o := by cases o <;> rfl

/-- A build has the commands of the rows it has (30_encoding R41). -/
theorem Instr.wellFormed_iff {p : Params} {i : Instr} :
    i.wellFormed p = true ↔ (i.op.needsDecoder = true → p.hasBmpDecoder = true) := by
  cases i <;> simp [Instr.wellFormed, Instr.op, Op.needsDecoder]

/-! ## Decoding by row -/

theorem decode_of_noRow {p : Params} {w : Word} (h : opOfField (opField w) = none) :
    decode p w = .error .reservedOpcode := by rw [decode, h]

theorem decode_of_absent {p : Params} {w : Word} {o : Op} (h : opOfField (opField w) = some o) (hn : o.needsDecoder = true)
    (hp : p.hasBmpDecoder = false) : decode p w = .error .decoderAbsent := by
  simp [decode, h, hn, hp]

/-- In a row the build has, only a bit under the mask can make a word illegal. -/
theorem decode_of_present {p : Params} {w : Word} {o : Op} (h : opOfField (opField w) = some o)
    (hp : o.needsDecoder = true → p.hasBmpDecoder = true) :
    decode p w = if w &&& o.mask = o.pattern then .ok (o.fields w) else .error .reservedBit := by
  have hb : (o.needsDecoder && !p.hasBmpDecoder) = false := by
    rwa [Bool.and_eq_false_imp, Bool.not_eq_eq_eq_not, Bool.not_false]
  simp only [decode, h, hb, Op.encodes_iff, Bool.false_eq_true, if_false]

/-- A word decodes to its fields in the row it matches, if the build has the row. -/
theorem decode_eq_ok_iff {p : Params} {w : Word} {i : Instr} :
    decode p w = .ok i ↔
      ∃ o : Op, w &&& o.mask = o.pattern ∧ (o.needsDecoder = true → p.hasBmpDecoder = true) ∧ i = o.fields w := by
  constructor
  · intro h
    cases hrow : opOfField (opField w) with
    | none => rw [decode_of_noRow hrow] at h; cases h
    | some o =>
      by_cases hp : o.needsDecoder = true → p.hasBmpDecoder = true
      · rw [decode_of_present hrow hp] at h
        split at h
        · cases h; exact ⟨o, ‹_›, hp, rfl⟩
        · cases h
      · rw [Classical.not_imp, Bool.not_eq_true] at hp
        rw [decode_of_absent hrow hp.1 hp.2] at h; cases h
  · rintro ⟨o, hm, hp, rfl⟩
    rw [decode_of_present (opOfField_of_matches hm) hp, if_pos hm]

/-- A word is illegal when every row it matches is one that the build leaves out (30_encoding R39). -/
theorem decode_error_iff {p : Params} {w : Word} :
    (∃ e, decode p w = .error e) ↔
      ∀ o : Op, w &&& o.mask = o.pattern → o.needsDecoder = true ∧ p.hasBmpDecoder = false := by
  have hok : (∃ e, decode p w = .error e) ↔ ∀ i, decode p w ≠ .ok i := by cases decode p w <;> simp
  rw [hok]
  refine ⟨fun h o hm => ?_, fun h i hi => ?_⟩
  · have hp : ¬(o.needsDecoder = true → p.hasBmpDecoder = true) := fun hp => h _ (decode_eq_ok_iff.2 ⟨o, hm, hp, rfl⟩)
    rwa [Classical.not_imp, Bool.not_eq_true] at hp
  · obtain ⟨o, hm, hp, -⟩ := decode_eq_ok_iff.1 hi
    obtain ⟨hn, habsent⟩ := h o hm
    exact absurd (hp hn) (by simp [habsent])

/-- The word of a command the build has decodes to it (30_encoding R37). -/
theorem decode_encode {p : Params} {i : Instr} (h : i.wellFormed p = true) : decode p (encode i) = .ok i :=
  decode_eq_ok_iff.2 ⟨i.op, encode_matches i, Instr.wellFormed_iff.1 h, (fields_encode i).symm⟩

/-- The word a list of bytes begins with is put together again from its bytes (20_memory R28). -/
theorem decodeBytes_bytesOfWord {p : Params} {w : Word} {i : Instr} (h : decode p w = .ok i) (rest : List Byte) :
    decodeBytes p (bytesOfWord w ++ rest) = .ok (i, rest) := by
  have hw : wordOfBytes (w.extractLsb' 0 8) (w.extractLsb' 8 8) (w.extractLsb' 16 8) (w.extractLsb' 24 8) = w := by
    apply Machine.wordOfBytes_eq_of_toNat
    simp only [BitVec.extractLsb'_toNat, Nat.shiftRight_eq_div_pow]
    omega
  simp only [bytesOfWord, List.cons_append, List.nil_append, decodeBytes, hw, h]

end Sys2Proof
end

section
/-!
The statements about the encoding (30_encoding): the codec's two directions, the opcode map, the illegal words and the
assembler.
-/
namespace Sys2Proof.Machine

/-! ## Encode and decode -/

/-- Settles O1: the word matches its command's row, and the row's fields are the command. -/
theorem decodeOfEncode : Obligations.DecodeOfEncode := by
  intro p i rest h
  exact ⟨decode_encode h, decodeBytes_bytesOfWord (decode_encode h) rest⟩

/-- Settles O2: the row that decodes the word fixes every bit that is not in a field. -/
theorem encodeOfDecode : Obligations.EncodeOfDecode := by
  intro p w i h
  obtain ⟨o, hm, hp, rfl⟩ := decode_eq_ok_iff.1 h
  exact ⟨encode_fields_of_matches hm, Instr.wellFormed_iff.2 (by rwa [Op.op_fields])⟩

/-- Settles O3: a word that matches a row has the row's OP field, which no other row has. -/
theorem opcodeMapUnambiguous : Obligations.OpcodeMapUnambiguous := by
  refine ⟨by decide, fun w o o' h h' => ?_, fun w i => ?_⟩
  · exact Op.eq_of_opField_eq ((opField_of_matches h).symm.trans (opField_of_matches h'))
  · simp [decode_eq_ok_iff]

/-! ## Executing a word -/

theorem State.execute_of_ok {s : State} {w : Word} {i : Instr} (h : decode s.params w = .ok i) : s.execute w = exec i s := by
  rw [State.execute, h]

theorem State.execute_of_illegal {s : State} {w : Word} {e : Illegal} (h : decode s.params w = .error e)
    (hs : s.state ≠ .error) : s.execute w = .next { s with errcode := 9, errinfo := w, state := .error } := by
  rw [State.execute, h]
  exact State.unlessError_of_ne hs

theorem State.execute_of_illegal_in_error {s : State} {w : Word} {e : Illegal} (h : decode s.params w = .error e)
    (hs : s.state = .error) : s.execute w = .next s := by
  rw [State.execute, h]
  exact State.unlessError_of_error hs

/-! ## Illegal words -/

/-- Every word with OP 0xF matches RESET's row, which every build has (30_encoding R40). -/
theorem decode_of_opField_reset (p : Params) {w : Word} (h : opField w = 0xF) :
    decode p w = .ok (.reset (w.extractLsb' 0 28)) := decode_eq_ok_iff.2 ⟨.reset, matches_reset h, nofun, rfl⟩

theorem State.execute_of_opField_reset (s : State) {w : Word} (h : opField w = 0xF) : s.execute w = .next s.cmdReset :=
  State.execute_of_ok (decode_of_opField_reset s.params h)

/-- Settles O5: RESET's meaning does not look at its operand. -/
theorem resetWordsNeverIllegal : Obligations.ResetWordsNeverIllegal := by
  refine fun p w h => ⟨⟨_, decode_of_opField_reset p h⟩, fun s => ?_⟩
  rw [s.execute_of_opField_reset h, s.execute_of_opField_reset (w := 0xF0000000) (by decide)]

/-- Settles O6: OP 4 and 5 name the decoder's rows, which are gone before any lower bit is looked at. -/
theorem decoderWordsIllegalWhenAbsent : Obligations.DecoderWordsIllegalWhenAbsent := by
  intro s w hp hop
  have hd : decode s.params w = .error .decoderAbsent := by
    rcases hop with h | h
    · exact decode_of_absent (o := .decodeHeader) (opOfField_eq_some.2 h) rfl hp
    · exact decode_of_absent (o := .convert) (opOfField_eq_some.2 h) rfl hp
  exact ⟨hd, State.execute_of_illegal hd⟩

/-- Settles O4: a word that decodes to no command has an OP field of no row, or misses the row of its OP field, or matches a
row that the build leaves out. RESET's row cannot be missed. -/
theorem illegalWordsExactly : Obligations.IllegalWordsExactly := by
  refine ⟨fun p w => ?_, fun s w e h => ⟨State.execute_of_illegal h, State.execute_of_illegal_in_error h⟩⟩
  rw [decode_error_iff]
  constructor
  · intro h
    cases hrow : opOfField (opField w) with
    | none => exact .inl (opOfField_eq_none.1 hrow)
    | some o =>
      have hop : opField w = opField o.pattern := opOfField_eq_some.1 hrow
      by_cases hm : w &&& o.mask = o.pattern
      · obtain ⟨hn, hp⟩ := h o hm
        exact .inr (.inr ⟨hp, hop ▸ Op.needsDecoder_iff.1 hn⟩)
      · have ho : o ≠ .reset := by rintro rfl; exact hm (matches_reset hop)
        exact .inr (.inl ⟨hop ▸ Op.opField_le_five ho, o, hop.symm, hm⟩)
  · intro h o hm
    have hop : opField w = opField o.pattern := opField_of_matches hm
    rcases h with h | ⟨-, o', hop', hm'⟩ | ⟨hp, h⟩
    · exact absurd (opOfField_of_matches hm) (by simp [opOfField_eq_none.2 h])
    · exact absurd (Op.eq_of_opField_eq (hop'.trans hop) ▸ hm) hm'
    · exact ⟨Op.needsDecoder_iff.2 (hop ▸ h), hp⟩

/-! ## The assembler -/

theorem assemble_eq_none_iff {l : AsmLine} : assemble l = none ↔ ¬l.wellFormed = true := by
  simp [assemble]

theorem assemble_eq_some_iff {l : AsmLine} {w : Word} : assemble l = some w ↔ l.wellFormed = true ∧ l.code = w := by
  simp [assemble]

theorem AsmLine.wellFormed_push {r g b : Nat} :
    (AsmLine.push r g b).wellFormed = true ↔ r ≤ 255 ∧ g ≤ 255 ∧ b ≤ 255 := by
  simp [AsmLine.wellFormed, and_assoc]

theorem AsmLine.wellFormed_config {n f q : Nat} :
    (AsmLine.config n f q).wellFormed = true ↔ n ≤ 255 ∧ f ≤ 1 ∧ q ≤ 1 := by
  simp [AsmLine.wellFormed, and_assoc]

/-- An operand in range is the number its byte stands for. -/
theorem toNat_byte_of_le {n : Nat} (h : n ≤ 255) : (BitVec.ofNat 8 n).toNat = n := Nat.mod_eq_of_lt (by omega)

/-- An operand in range is the number its bit stands for. -/
theorem toNat_flag_of_le {n : Nat} (h : n ≤ 1) : (n == 1).toNat = n := by
  interval_cases n <;> rfl

/-- Settles O8: a line in range is the word of its command, which decodes to it. -/
theorem assembledLinesDecode : Obligations.AssembledLinesDecode := by
  refine ⟨fun r g b => ?_, fun r g b w h => ?_, fun n f q => ?_, fun n f q w h => ?_, fun u => ?_⟩
  · rw [assemble_eq_none_iff, AsmLine.wellFormed_push]
  · obtain ⟨hl, rfl⟩ := assemble_eq_some_iff.1 h
    obtain ⟨hr, hg, hb⟩ := AsmLine.wellFormed_push.1 hl
    exact ⟨_, _, _, decode_encode rfl, toNat_byte_of_le hr, toNat_byte_of_le hg, toNat_byte_of_le hb⟩
  · rw [assemble_eq_none_iff, AsmLine.wellFormed_config]
  · obtain ⟨hl, rfl⟩ := assemble_eq_some_iff.1 h
    obtain ⟨hn, hf, hq⟩ := AsmLine.wellFormed_config.1 hl
    exact ⟨_, _, _, decode_encode rfl, toNat_byte_of_le hn, toNat_flag_of_le hf, toNat_flag_of_le hq⟩
  · simp [assemble, AsmLine.wellFormed, AsmLine.code]

/-- Settles O9: both lines have the same range and the same word. -/
theorem pseudoInstruction : Obligations.PseudoInstruction := by
  refine ⟨fun n => ?_, rfl⟩
  simp [assemble, AsmLine.wellFormed, AsmLine.code]

/-- Settles O7: the fixed words by evaluation, CONFIG 15 by its meaning in IDLE. -/
theorem encodingExamples : Obligations.EncodingExamples := by
  refine ⟨rfl, rfl, rfl, rfl, rfl, rfl, rfl, rfl, rfl, rfl, rfl, rfl, rfl, rfl, rfl, by decide, fun s hs => ?_⟩
  have hd : decode s.params 0x1000000F = .ok (.config 15 false false) := decode_encode (i := .config 15 false false) rfl
  have hne : s.state ≠ .error := by simp [hs]
  have hns : s.state ≠ .stream := by simp [hs]
  rw [State.execute_of_ok hd]
  exact (State.unlessError_of_ne hne).trans (if_neg hns)

end Sys2Proof.Machine
end

section
/-!
The control commands (40_control): the words that decode to each, what each one answers, and what it leaves unchanged; and
the step that brings a command word or a write of IN_LEN.
-/
namespace Sys2Proof

/-! ## Command words -/

/-- A word decodes to a command when it matches the command's row, which the build has, and holds its operands. -/
theorem decode_eq_ok_iff_op {p : Params} {w : Word} {i : Instr} :
    decode p w = .ok i ↔
      w &&& i.op.mask = i.op.pattern ∧ (i.op.needsDecoder = true → p.hasBmpDecoder = true) ∧ i = i.op.fields w := by
  rw [decode_eq_ok_iff]
  refine ⟨?_, fun h => ⟨i.op, h⟩⟩
  rintro ⟨o, hm, hp, rfl⟩
  rw [Op.op_fields]
  exact ⟨hm, hp, rfl⟩

/-- In a row without fields only the pattern itself matches (30_encoding R37, format Z). -/
theorem matches_iff_of_mask_allOnes {o : Op} {w : Word} (ho : o.mask = BitVec.allOnes 32) :
    w &&& o.mask = o.pattern ↔ w = o.pattern := by
  rw [ho, BitVec.and_allOnes]

/-- A word with the OP field of a row that every build has, but not matching it, has a reserved bit set (30_encoding R39). -/
theorem decode_of_reservedBit {p : Params} {w : Word} {o : Op} (ho : o.needsDecoder = false)
    (hf : opField w = opField o.pattern) (hm : w &&& o.mask ≠ o.pattern) : decode p w = .error .reservedBit := by
  rw [decode_of_present (opOfField_eq_some.2 hf) (by simp [ho]), if_neg hm]

/-- Four bytes decode as the word they stand for (20_memory R28). -/
theorem decode_of_decodeBytes {p : Params} {b0 b1 b2 b3 : Byte} {i : Instr} {rest : List Byte}
    (h : decodeBytes p [b0, b1, b2, b3] = .ok (i, rest)) : decode p (wordOfBytes b0 b1 b2 b3) = .ok i := by
  rw [decodeBytes] at h
  split at h
  · cases h; assumption
  · cases h

end Sys2Proof

namespace Sys2Proof.Machine

/-! ## The step -/

/-- Settles O10: each form of the step executes the word, and executing a word that decodes runs its command. -/
theorem stepRunsDecodedCommand : Obligations.StepRunsDecodedCommand := by
  refine ⟨fun s w rest i hh hd _ => ?_, fun s b0 b1 b2 b3 rest i hh hd => ?_, fun s nbits w i hd => ?_⟩
  · exact (step_of_host hh).trans (State.execute_of_ok hd)
  · exact (step_of_host hh).trans (State.execute_of_ok (decode_of_decodeBytes hd))
  · exact (step_of_host (s := s.withFetchWord nbits w) rfl).trans (State.execute_of_ok hd)

/-- Settles O14, by the equation of the port's write. -/
theorem inLenWrite : Obligations.InLenWrite := fun _ v _ h => (step_of_host h).trans (State.portWrite_eq _ 4 0x1C v)

/-! ## NOP -/

theorem exec_nop (s : State) : exec .nop s = .next s := by
  cases hs : s.state <;> simp [exec, execNop, State.unlessError, hs]

/-- Settles O21: NOP's row has no field, so any other word of its OP field has a reserved bit set. -/
theorem nopDoesNothing : Obligations.NopDoesNothing := by
  have hrow (w : Word) : w &&& Op.nop.mask = Op.nop.pattern ↔ w = 0 := matches_iff_of_mask_allOnes rfl
  refine ⟨fun p w => ?_, exec_nop, fun s w hf hw hs => ?_⟩
  · rw [decode_eq_ok_iff_op, Instr.op, hrow]
    simp [Op.needsDecoder, Op.fields]
  · exact State.execute_of_illegal (decode_of_reservedBit (o := .nop) rfl hf (mt (hrow w).1 hw)) hs

/-! ## CONFIG -/

/-- A depth operand has a packer when it is the number of bits of a depth. -/
theorem depthOf_eq_some {bpp : Byte} {d : Depth} : depthOf bpp = some d ↔ bpp = d.bits := by
  revert bpp
  cases d <;> decide

theorem depthOf_eq_none {bpp : Byte} (h : ∀ d : Depth, bpp ≠ d.bits) : depthOf bpp = none :=
  Option.eq_none_iff_forall_ne_some.2 fun d hd => h d (depthOf_eq_some.1 hd)

section
variable {s : State} {bpp : Byte} {flip pad : Bool}

theorem exec_config_of_stream (hs : s.state = .stream) :
    exec (.config bpp flip pad) s = .next (s.raise .sequenceError (encode (.config bpp flip pad))) := by
  simp [exec, execConfig, State.unlessError, hs]

theorem exec_config_of_noPacker (hs : s.state = .idle) (hd : depthOf bpp = none) :
    exec (.config bpp flip pad) s = .next (s.raise .unsupportedOutputBpp (bpp.setWidth 32)) := by
  simp [exec, execConfig, State.unlessError, hs, hd]

theorem exec_config_of_packer {d : Depth} (hs : s.state = .idle) (hd : depthOf bpp = some d) :
    exec (.config bpp flip pad) s = .next { s with ctrl := ⟨d, flip, padModeOf pad⟩ } := by
  simp [exec, execConfig, State.unlessError, hs, hd]

/-- CONFIG is ignored, or raises, or writes CTRL and nothing else. -/
theorem exec_config_cases {t : State} (h : exec (.config bpp flip pad) s = .next t) :
    t = s ∨ (∃ e info, t = s.raise e info) ∨ ∃ c, t = { s with ctrl := c } := by
  rcases State.unlessError_next h with ⟨-, rfl⟩ | ⟨-, h⟩
  · exact .inl rfl
  · split at h
    · exact .inr (.inl ⟨_, _, (next_inj.1 h).symm⟩)
    · split at h
      · exact .inr (.inl ⟨_, _, (next_inj.1 h).symm⟩)
      · exact .inr (.inr ⟨_, (next_inj.1 h).symm⟩)

end

theorem padModeOf_eq_ite (pad : Bool) : padModeOf pad = if pad then .bmp else .compat := by cases pad <;> rfl

/-- Settles O22, by the answer of CONFIG in STREAM and, for each kind of depth operand, in IDLE. -/
theorem configSetsOptions : Obligations.ConfigSetsOptions := by
  refine ⟨fun p w bpp flip pad => ?_, fun s bpp flip pad =>
    ⟨exec_config_of_stream, fun hs h8 h12 h16 h24 => ?_, fun hs d hd => ?_⟩⟩
  · simp [decode_eq_ok_iff_op, Instr.op, Op.needsDecoder, Op.fields, Op.mask, Op.pattern]
  · exact exec_config_of_noPacker hs (depthOf_eq_none fun d => by cases d <;> assumption)
  · have hbits : bpp = d.bits := by rcases hd with ⟨rfl, rfl⟩ | ⟨rfl, rfl⟩ | ⟨rfl, rfl⟩ | ⟨rfl, rfl⟩ <;> rfl
    rw [exec_config_of_packer hs (depthOf_eq_some.2 hbits), padModeOf_eq_ite]

/-! ## END -/

/-- In ERROR there is no stream to close, so END is the same operation in every state. -/
theorem exec_endStream (s : State) : exec .endStream s = .next s.closeStream := by
  by_cases hs : s.state = .error
  · rw [State.closeStream_of_ne (by simp [hs])]
    exact State.unlessError_of_error hs
  · exact State.unlessError_of_ne hs

/-- Settles O23: END's row has no field; closing a stream leaves none to close. -/
theorem endClosesStream : Obligations.EndClosesStream := by
  have hrow (w : Word) : w &&& Op.endStream.mask = Op.endStream.pattern ↔ w = 0x30000000 :=
    matches_iff_of_mask_allOnes rfl
  refine ⟨fun p w => ?_, fun s w hf hw hs => ?_, fun s hs => ?_, fun s hs => ?_, fun s t h => ?_⟩
  · rw [decode_eq_ok_iff_op, Instr.op, hrow]
    simp [Op.needsDecoder, Op.fields]
  · exact State.execute_of_illegal (decode_of_reservedBit (o := .endStream) rfl hf (mt (hrow w).1 hw)) hs
  · rw [exec_endStream, State.closeStream_of_stream hs]
  · rw [exec_endStream, State.closeStream_of_ne (by simp [hs])]
  · rw [exec_endStream, next_inj] at h
    subst h
    rw [exec_endStream, State.closeStream_of_ne s.closeStream_state_ne]

/-! ## RESET -/

/-- Settles O24: RESET's row fixes the OP field alone, and its meaning writes the reset value of every register but IN_LEN. -/
theorem resetCommand : Obligations.ResetCommand := by
  refine ⟨fun p w => ⟨fun h => ⟨_, decode_of_opField_reset p h⟩, ?_⟩, fun ignored s => rfl⟩
  rintro ⟨ignored, h⟩
  obtain ⟨hm, -, -⟩ := decode_eq_ok_iff_op.1 h
  exact opField_of_matches (o := .reset) hm

/-! ## What the control commands leave unchanged -/

/-- Settles O50: NOP and END each have one outcome, CONFIG those of `exec_config_cases`. -/
theorem controlFrame : Obligations.ControlFrame := by
  intro i s t hi h
  rcases hi with rfl | rfl | ⟨bpp, flip, pad, rfl⟩
  · rw [exec_nop, next_inj] at h
    subst h
    simp
  · rw [exec_endStream, next_inj] at h
    subst h
    simp
  · rcases exec_config_cases h with rfl | ⟨e, info, rfl⟩ | ⟨c, rfl⟩ <;> simp

end Sys2Proof.Machine
end

section
/-!
The header decode (41_bmp_decoder R51 to R55): what DECODE_HEADER and CONVERT answer for a short file, for a header that
fails a check and for one that passes, and what the two commands leave unchanged.
-/
namespace Sys2Proof.Machine

/-! ## The header that IN holds -/

theorem State.readHeader_eq_some {s : State} {h : Header} (hl : headerBytes ≤ s.inLen.toNat) (hh : HeaderAt s.inMem h) :
    s.readHeader = some h := by
  obtain ⟨x, hr, hx⟩ := State.readHeader_of_le hl
  rw [hr, hx.unique hh]

section
variable {s : State} {h : Header} {k : State → Header → Result}

theorem State.decodeHeaderChecked_of_short (hl : s.inLen.toNat < headerBytes) :
    s.decodeHeaderChecked k = .next (s.clearHeaderBank.raise .truncatedData (BitVec.ofNat 32 headerBytes)) := by
  rw [State.decodeHeaderChecked, if_pos hl]

theorem State.decodeHeaderChecked_of_failure {e : ErrKind} {info : Word} (hl : headerBytes ≤ s.inLen.toNat)
    (hh : HeaderAt s.inMem h) (hf : headerFailure h = some (e, info)) :
    s.decodeHeaderChecked k = .next (s.clearHeaderBank.raise e info) := by
  simp [State.decodeHeaderChecked, Nat.not_lt_of_le hl, State.readHeader_eq_some hl hh, hf]

theorem State.decodeHeaderChecked_of_valid (hl : headerBytes ≤ s.inLen.toNat) (hh : HeaderAt s.inMem h) (hv : h.Valid) :
    s.decodeHeaderChecked k = k (s.commitHeader h) h := by
  simp [State.decodeHeaderChecked, Nat.not_lt_of_le hl, State.readHeader_eq_some hl hh, headerFailure_eq_none.2 hv]

end

/-! ## The two commands -/

theorem exec_decodeHeader {s : State} (hs : s.state ≠ .error) (hp : s.params.hasBmpDecoder = true) :
    exec .decodeHeader s = s.decodeHeaderChecked fun t _ => .next t :=
  (State.unlessError_of_ne hs).trans (State.withDecoder_of_present hp)

theorem exec_convert_of_idle {s : State} (hs : s.state = .idle) (hp : s.params.hasBmpDecoder = true) :
    exec .convert s = s.decodeHeaderChecked State.convertPixels := by
  simp [exec, execConvert, State.unlessError, State.withDecoder, hs, hp]

theorem exec_convert_of_stream {s : State} (hs : s.state = .stream) (hp : s.params.hasBmpDecoder = true) :
    exec .convert s = .next (s.raise .sequenceError (encode .convert)) := by
  simp [exec, execConvert, State.unlessError, State.withDecoder, hs, hp]

theorem HeaderCommand.decodeHeader_or_convert {s : State} {i : Instr} (hc : HeaderCommand s i) :
    i = .decodeHeader ∨ i = .convert := by
  obtain ⟨-, -, h⟩ := hc
  exact h.imp_right And.left

/-- Both header commands begin with the checked header decode (41_bmp_decoder R55, R61). -/
theorem HeaderCommand.exec_eq {s : State} {i : Instr} (hc : HeaderCommand s i) :
    ∃ k, exec i s = s.decodeHeaderChecked k := by
  obtain ⟨hs, hp, rfl | ⟨rfl, hi⟩⟩ := hc
  · exact ⟨_, exec_decodeHeader hs hp⟩
  · exact ⟨_, exec_convert_of_idle hi hp⟩

theorem HeaderCommand.exec_of_short {s : State} {i : Instr} (hc : HeaderCommand s i) (hl : s.inLen.toNat < headerBytes) :
    exec i s = .next (s.clearHeaderBank.raise .truncatedData (BitVec.ofNat 32 headerBytes)) := by
  obtain ⟨k, hk⟩ := hc.exec_eq
  exact hk.trans (State.decodeHeaderChecked_of_short hl)

theorem HeaderCommand.exec_of_failure {s : State} {i : Instr} {h : Header} {e : ErrKind} {info : Word}
    (hc : HeaderCommand s i) (hl : headerBytes ≤ s.inLen.toNat) (hh : HeaderAt s.inMem h)
    (hf : headerFailure h = some (e, info)) : exec i s = .next (s.clearHeaderBank.raise e info) := by
  obtain ⟨k, hk⟩ := hc.exec_eq
  exact hk.trans (State.decodeHeaderChecked_of_failure hl hh hf)

/-- Settles O35: the header in IN is the one read, and a valid one is committed. -/
theorem decodeHeaderCommits : Obligations.DecodeHeaderCommits := by
  intro s h hs hp hl hh hv
  exact (exec_decodeHeader hs hp).trans (State.decodeHeaderChecked_of_valid hl hh hv)

/-- Settles O36: in each clause `headerFailure` finds that clause's check first. -/
theorem headerChecksInOrder : Obligations.HeaderChecksInOrder := by
  intro s i h hs hp hi hl hh
  have hc : HeaderCommand s i := ⟨hs, hp, hi⟩
  refine ⟨fun h1 => ?_, fun h1 h2 => ?_, fun h1 h2 h3 => ?_, fun h1 h2 h3 h4 => ?_⟩
  · exact hc.exec_of_failure (e := .invalidFormat) hl hh (if_pos h1)
  · exact hc.exec_of_failure (e := .unsupportedPlanes) hl hh (by rw [headerFailure, if_neg (not_not_intro h1), if_pos h2])
  · exact hc.exec_of_failure (e := .unsupportedBitDepth) hl hh
      (by rw [headerFailure, if_neg (not_not_intro h1), if_neg (not_not_intro h2), if_pos h3])
  · exact hc.exec_of_failure (e := .unsupportedCompression) hl hh
      (by rw [headerFailure, if_neg (not_not_intro h1), if_neg (not_not_intro h2), if_neg (not_not_intro h3), if_pos h4])

/-- Settles O37: the length is checked before any byte is read. -/
theorem shortFileIsTruncated : Obligations.ShortFileIsTruncated := by
  intro s i hs hp hi hl
  exact HeaderCommand.exec_of_short ⟨hs, hp, hi⟩ hl

/-- Settles O44: the stream is checked before the header. -/
theorem convertInsideStream : Obligations.ConvertInsideStream := fun _ hs hp => exec_convert_of_stream hs hp

/-! ## What the two commands leave unchanged -/

/-- A header command either raises, or leaves STATE, ERRCODE and ERRINFO as they were. -/
theorem Effect.decoder_error_or_kept {s t : State} {i : Instr} (h : Effect s i t) (hi : i = .decodeHeader ∨ i = .convert) :
    t.state = .error ∨ (t.state = s.state ∧ t.errcode = s.errcode ∧ t.errinfo = s.errinfo) := by
  cases h with
  | nop | config | configInStream | configNoPacker | push | endStream | reset => simp at hi
  | ignored | headerGood | convert => exact .inr ⟨rfl, rfl, rfl⟩
  | decoderAbsent | convertInStream | headerShort | headerBad | convertTruncated => exact .inl rfl

/-- CTRL stays. Only a CONVERT that succeeds emits; the bytes go behind what OUT holds. -/
theorem Effect.decoder_ctrl_out {s t : State} {i : Instr} (h : Effect s i t) (hi : i = .decodeHeader ∨ i = .convert) :
    t.ctrl = s.ctrl ∧ ∃ bs, t.out = s.out ++ bs := by
  cases h with
  | nop | config | configInStream | configNoPacker | push | endStream | reset => simp at hi
  | ignored | headerGood | decoderAbsent | convertInStream | headerShort | headerBad | convertTruncated =>
    exact ⟨rfl, [], (List.append_nil _).symm⟩
  | convert => exact ⟨rfl, _, rfl⟩

theorem Effect.decodeHeader_stream_kept {s t : State} (h : Effect s .decodeHeader t) :
    t.phase = s.phase ∧ t.hold = s.hold ∧ t.pixcnt = s.pixcnt ∧ t.bytecnt = s.bytecnt ∧ t.out = s.out := by
  cases h with
  | ignored | decoderAbsent | headerShort | headerBad | headerGood => exact ⟨rfl, rfl, rfl, rfl, rfl⟩

/-- Settles O52, from what each effect of the two commands leaves. -/
theorem decoderFrame : Obligations.DecoderFrame := by
  intro i s t hi h
  have he := exec_cases h
  obtain ⟨hlen, hparams, -, -, -, hmem⟩ := he.sameHostsOwn
  obtain ⟨hctrl, hout⟩ := he.decoder_ctrl_out hi
  refine ⟨hctrl, hlen, hparams, hout, fun a => by rw [hmem], he.decoder_error_or_kept hi, ?_⟩
  rintro rfl
  exact he.decodeHeader_stream_kept

/-- Settles O54: a header command clears the bank when the decode fails and commits it when it passes, RESET clears it, and
every other effect keeps it. -/
theorem headerBankWrittenWhole : Obligations.HeaderBankWrittenWhole := by
  intro i s t h
  cases exec_cases h with
  | push | endStream => exact .inl ⟨by simp, by simp⟩
  | ignored | nop | config | configInStream | configNoPacker | decoderAbsent | convertInStream => exact .inl ⟨rfl, rfl⟩
  | reset x => exact .inr (.inl ⟨.inr (.inr ⟨x, rfl⟩), rfl, rfl⟩)
  | headerShort _ hc | headerBad _ _ _ _ hc => exact .inr (.inl ⟨hc.decodeHeader_or_convert.imp_right .inl, rfl, rfl⟩)
  | headerGood _ hc _ hh hf | convertTruncated _ hc _ hh hf | convert _ _ hc _ hh hf =>
    exact .inr (.inr ⟨hc.decodeHeader_or_convert, hh, headerFailure_eq_none.1 hf, rfl⟩)

end Sys2Proof.Machine
end

section
/-!
The pixels of an image (41_bmp_decoder R56 to R62): padding, addresses, the end of the pixel region, and the bound that the
truncation check puts on their number.
-/
namespace Sys2Proof.Machine

/-- Settles O38: the residue of the width modulo 4 fixes both paddings. -/
theorem paddingTable : Obligations.PaddingTable := by
  intro w
  have hcompat : pad .compat w = (3 * w) % 4 := rfl
  have hbmp : pad .bmp w = (4 - (3 * w) % 4) % 4 := rfl
  rw [hcompat, hbmp]
  refine ⟨rfl, rfl, ?_, ?_, ?_, ?_, ?_⟩ <;> omega

/-! ## Addresses -/

section
variable {c : Ctrl} {h : Header} {i j : Nat}

theorem rowMajor_lt_pixelCount (hi : i < h.height.toNat) (hj : j < h.width.toNat) :
    i * h.width.toNat + j < pixelCount h := by
  calc i * h.width.toNat + j < (i + 1) * h.width.toNat := by rw [Nat.succ_mul]; omega
    _ ≤ h.height.toNat * h.width.toNat := Nat.mul_le_mul_right _ hi
    _ = pixelCount h := Nat.mul_comm _ _

/-- The pixel in sequence row `i` and column `j` (41_bmp_decoder R57). -/
theorem pixAddr_rowMajor (hj : j < h.width.toNat) :
    pixAddr c h (i * h.width.toNat + j) = h.dataOffset.toNat + fileRow c h i * stride c h + 3 * j := by
  have hrow : (i * h.width.toNat + j) / h.width.toNat = i := by
    rw [Nat.mul_comm, Nat.mul_add_div (Nat.zero_lt_of_lt hj), Nat.div_eq_of_lt hj, Nat.add_zero]
  have hcol : (i * h.width.toNat + j) % h.width.toNat = j := by rw [Nat.mul_add_mod', Nat.mod_eq_of_lt hj]
  rw [pixAddr, hrow, hcol]

end

/-- Settles O39, by the row and the column of the pixel's number. -/
theorem pixelAddresses : Obligations.PixelAddresses :=
  fun _ _ _ _ hi hj => ⟨rfl, rowMajor_lt_pixelCount hi hj, pixAddr_rowMajor hj⟩

/-! ## The end of the pixel region -/

theorem width_pos_of_pixelCount_pos {h : Header} (hn : 0 < pixelCount h) : 0 < h.width.toNat := Nat.pos_of_mul_pos_right hn

theorem height_pos_of_pixelCount_pos {h : Header} (hn : 0 < pixelCount h) : 0 < h.height.toNat := Nat.pos_of_mul_pos_left hn

/-- Some sequence row is the last row on disk: the first one when the rows are flipped, the last one otherwise. -/
theorem exists_fileRow_eq_last (c : Ctrl) {h : Header} (hh : 0 < h.height.toNat) :
    ∃ i < h.height.toNat, fileRow c h i = h.height.toNat - 1 := by
  cases hf : c.flip with
  | true => exact ⟨0, hh, by simp [fileRow, hf]⟩
  | false => exact ⟨h.height.toNat - 1, by omega, by simp [fileRow, hf]⟩

/-- Settles O40: the bound is reached in the last column of the last row on disk. -/
theorem pixelRegionEnd : Obligations.PixelRegionEnd := by
  intro c h hn
  refine ⟨rfl, fun k hk => pixAddr_add_three_le_pixelEnd hk, ?_⟩
  have hw := width_pos_of_pixelCount_pos hn
  obtain ⟨i, hi, hrow⟩ := exists_fileRow_eq_last c (height_pos_of_pixelCount_pos hn)
  have hj : h.width.toNat - 1 < h.width.toNat := by omega
  refine ⟨_, rowMajor_lt_pixelCount hi hj, ?_⟩
  rw [pixAddr_rowMajor hj, hrow, pixelEnd]
  omega

/-! ## The number of pixels -/

/-- Every pixel takes three bytes, so `End` is at least three times their number. -/
theorem three_mul_pixelCount_le_pixelEnd (c : Ctrl) {h : Header} (hn : 0 < pixelCount h) :
    3 * pixelCount h ≤ pixelEnd c h := by
  have hh := height_pos_of_pixelCount_pos hn
  calc 3 * pixelCount h = (h.height.toNat - 1 + 1) * (3 * h.width.toNat) := by rw [Nat.sub_add_cancel hh, pixelCount]; ring
    _ = (h.height.toNat - 1) * (3 * h.width.toNat) + 3 * h.width.toNat := Nat.succ_mul _ _
    _ ≤ (h.height.toNat - 1) * stride c h + 3 * h.width.toNat :=
      Nat.add_le_add_right (Nat.mul_le_mul_left _ (Nat.le_add_right _ _)) _
    _ ≤ pixelEnd c h := by unfold pixelEnd; omega

theorem outLen_le_three_mul (d : Depth) (n : Nat) : outLen d n ≤ 3 * n := by
  cases d <;> simp only [outLen] <;> omega

/-- Settles O41: three times the number of pixels is at most IN_LEN, and a side of 2^31 alone makes it more than 2^32. -/
theorem imageFitsCounters : Obligations.ImageFitsCounters := by
  intro s h
  have hlen : s.inLen.toNat < 2 ^ 32 := s.inLen.isLt
  have hend : 0 < pixelCount h → 3 * pixelCount h ≤ pixelEnd s.ctrl h := three_mul_pixelCount_le_pixelEnd s.ctrl
  have hout := outLen_le_three_mul s.ctrl.bpp (pixelCount h)
  refine ⟨fun hfit => ?_, fun hside hn => ?_⟩
  · have hn : 3 * pixelCount h ≤ s.inLen.toNat := by omega
    omega
  · have hw : h.width.toNat ≤ pixelCount h := Nat.le_mul_of_pos_right _ (height_pos_of_pixelCount_pos hn)
    have hh : h.height.toNat ≤ pixelCount h := Nat.le_mul_of_pos_left _ (width_pos_of_pixelCount_pos hn)
    omega

end Sys2Proof.Machine
end

section
/-!
CONVERT (41_bmp_decoder R58 to R61): the pixels it loads, the state it ends in, and the run of PUSHes and END that ends in the
same state (42_packer R72).
-/
namespace Sys2Proof.Machine

/-! ## The image that IN holds -/

/-- The pixels of an image as the memory holds them, in sequence order (41_bmp_decoder R60). -/
def imagePixels (m : Memory) (c : Ctrl) (h : Header) : List Pixel :=
  (List.range (pixelCount h)).map fun k => pixelAt m (pixAddr c h k)

@[simp] theorem imagePixels_length (m : Memory) (c : Ctrl) (h : Header) : (imagePixels m c h).length = pixelCount h := by
  simp [imagePixels]

theorem State.eq_read_of_inRead {s : State} {a : Nat} {b : Byte} (h : s.inRead a = some b) :
    b = Memory.read s.inMem a := by
  unfold State.inRead at h
  split at h
  · exact (Option.some.inj h).symm
  · cases h

theorem State.eq_pixelAt_of_loadPixel {s : State} {a : Nat} {p : Pixel} (h : s.loadPixel a = some p) :
    p = pixelAt s.inMem a := by
  unfold State.loadPixel at h
  split at h
  · rename_i b g r hb hg hr
    rw [← Option.some.inj h, State.eq_read_of_inRead hb, State.eq_read_of_inRead hg, State.eq_read_of_inRead hr]
    rfl
  · cases h

/-- Pixels that load are the ones the memory holds. -/
theorem State.eq_map_of_loadAll {s : State} {as : List Nat} {ps : List Pixel} (h : s.loadAll as = some ps) :
    ps = as.map (pixelAt s.inMem) := by
  induction as generalizing ps with
  | nil => exact (Option.some.inj h).symm
  | cons a as ih =>
    rw [State.loadAll] at h
    split at h
    · rename_i p qs hp hqs
      rw [← Option.some.inj h, State.eq_pixelAt_of_loadPixel hp, ih hqs, List.map_cons]
    · cases h

theorem State.eq_imagePixels_of_loadPixels {s : State} {h : Header} {ps : List Pixel} (hps : s.loadPixels h = some ps) :
    ps = imagePixels s.inMem s.ctrl h := (State.eq_map_of_loadAll hps).trans List.map_map

theorem State.convertPixels_of_truncated {s : State} {h : Header} (hn : 0 < pixelCount h)
    (hl : s.inLen.toNat < pixelEnd s.ctrl h) :
    s.convertPixels h = .next (s.raise .truncatedData (saturate (pixelEnd s.ctrl h))) := by
  rw [State.convertPixels, if_pos (State.truncated_iff.2 ⟨hn, hl⟩)]

theorem State.convertPixels_of_not_truncated {s : State} {h : Header}
    (ht : ¬(0 < pixelCount h ∧ s.inLen.toNat < pixelEnd s.ctrl h)) :
    s.convertPixels h = .next (s.emitImage (pixelCount h) (imagePixels s.inMem s.ctrl h)) := by
  obtain ⟨ps, hps⟩ := State.loadPixels_of_not_truncated ht
  rw [State.convertPixels, if_neg (mt State.truncated_iff.1 ht), hps, State.eq_imagePixels_of_loadPixels hps]

/-- What `emitImage` writes, BYTECNT by the length rule (41_bmp_decoder R61, 42_packer R70). -/
theorem State.emitImage_eq (s : State) (n : Nat) (ps : List Pixel) :
    s.emitImage n ps =
      { s with
        pixcnt := BitVec.ofNat 32 n
        bytecnt := BitVec.ofNat 32 (outLen s.ctrl.bpp ps.length)
        phase := false
        hold := 0
        out := s.out ++ packStream s.ctrl.bpp ps } := by
  rw [← packStream_length, ← BitVec.zero_add (BitVec.ofNat 32 (packStream s.ctrl.bpp ps).length)]
  rfl

/-- Settles O42: the header is committed, the whole image loads, and `emitImage` packs it. -/
theorem convertPacksImage : Obligations.ConvertPacksImage := by
  intro s h hs hp hl hh hv hfit
  have ht : ¬(0 < pixelCount h ∧ s.inLen.toNat < pixelEnd s.ctrl h) := by omega
  rw [exec_convert_of_idle hs hp, State.decodeHeaderChecked_of_valid hl hh hv,
    State.convertPixels_of_not_truncated (s := s.commitHeader h) ht, State.emitImage_eq, imagePixels_length]
  rfl

/-- Settles O43: the truncation check follows the commit and comes before any load. -/
theorem convertTruncatedPixels : Obligations.ConvertTruncatedPixels := by
  intro s h hs hp hl hh hv hn hend
  rw [exec_convert_of_idle hs hp, State.decodeHeaderChecked_of_valid hl hh hv]
  exact State.convertPixels_of_truncated (s := s.commitHeader h) hn hend

/-! ## A stream of PUSHes -/

/-- The state after each pixel of a list has been packed and counted in an open stream (42_packer R71). -/
def State.pushAll (s : State) (ps : List Pixel) : State := ps.foldl (fun t p => (t.packOne p).countPixel) s

theorem State.pushAll_cons (s : State) (p : Pixel) (ps : List Pixel) :
    s.pushAll (p :: ps) = (s.packOne p).countPixel.pushAll ps := rfl

theorem State.pushAll_state (s : State) (ps : List Pixel) : (s.pushAll ps).state = s.state := by
  induction ps generalizing s with
  | nil => rfl
  | cons p ps ih => rw [State.pushAll_cons, ih, State.countPixel_state, State.packOne_state]

theorem exec_push {s : State} (hs : s.state ≠ .error) (r g b : Byte) :
    exec (.push r g b) s = .next (s.openStream.packOne ⟨r, g, b⟩).countPixel := State.unlessError_of_ne hs

theorem runCommands_cons {i : Instr} {is : List Instr} {s t : State} (h : exec i s = .next t) :
    runCommands (i :: is) s = runCommands is t := by
  rw [runCommands, h]

/-- PUSHes in an open stream pack their pixels one after another. -/
theorem runCommands_pushes {s : State} (hs : s.state = .stream) (ps : List Pixel) (is : List Instr) :
    runCommands (ps.map (fun p => Instr.push p.r p.g p.b) ++ is) s = runCommands is (s.pushAll ps) := by
  induction ps generalizing s with
  | nil => rfl
  | cons p ps ih =>
    have hx : exec (.push p.r p.g p.b) s = .next (s.packOne p).countPixel := by
      rw [exec_push (by simp [hs]), State.openStream_of_stream hs]
    rw [List.map_cons, List.cons_append, runCommands_cons hx, ih (by simpa using hs), State.pushAll_cons]

/-- HOLD, moved back to the upper nibble, is the upper nibble of the blue byte it was taken from (42_packer R65, R71). -/
theorem hold_shiftLeft_eq (b : Byte) : ((b >>> 4).setWidth 4).setWidth 8 <<< 4 = b &&& 0xF0#8 := by
  revert b; decide

theorem packStream_nil (d : Depth) : packStream d [] = [] := by cases d <;> rfl

theorem packStream_cons_cons (d : Depth) (p q : Pixel) (ps : List Pixel) :
    packStream d (p :: q :: ps) = packStream d [p, q] ++ packStream d ps := by
  cases d <;> simp [packStream, pack12All]

/-- The bytes of `n` pixels emitted and counted; PHASE and HOLD stay as they are. -/
def State.streamed (s : State) (bs : List Byte) (n : Nat) : State :=
  { s.emit bs with pixcnt := s.pixcnt + BitVec.ofNat 32 n }

theorem State.streamed_nil (s : State) : s.streamed [] 0 = s := by simp [State.streamed, State.emit]

theorem State.streamed_streamed (s : State) (bs cs : List Byte) (m n : Nat) :
    (s.streamed bs m).streamed cs n = s.streamed (bs ++ cs) (m + n) := by
  simp [State.streamed, State.emit, BitVec.ofNat_add, BitVec.add_assoc]

/-- Two pixels of a stream with no pair open emit their packing and leave no pair open. -/
theorem State.pushAll_pair {s : State} (hp : s.phase = false) (hh : s.hold = 0) (p q : Pixel) :
    s.pushAll [p, q] = s.streamed (packStream s.ctrl.bpp [p, q]) 2 := by
  cases hd : s.ctrl.bpp with
  | bpp12 =>
    simp [State.pushAll, State.packOne, State.push12, State.countPixel, State.streamed, State.emit, packStream, pack12All,
      pack12Pair, hd, hp, hh, hold_shiftLeft_eq, BitVec.add_assoc]
  | bpp8 | bpp16 | bpp24 =>
    simp [State.pushAll, State.packOne, State.countPixel, State.streamed, State.emit, packStream, hd, pack8, pack16, pack24,
      BitVec.add_assoc]

/-- One pixel of a stream with no pair open emits its packing; what it leaves of a pair, END clears. -/
theorem State.closeStream_pushAll_single {s : State} (hs : s.state = .stream) (hp : s.phase = false) (p : Pixel) :
    (s.pushAll [p]).closeStream = (s.streamed (packStream s.ctrl.bpp [p]) 1).closeStream := by
  cases hd : s.ctrl.bpp with
  | bpp12 =>
    simp [State.pushAll, State.packOne, State.push12, State.countPixel, State.streamed, State.emit, State.closeStream,
      packStream, pack12All, pack12Tail, hd, hs, hp]
  | bpp8 | bpp16 | bpp24 => simp [State.pushAll, State.packOne, State.countPixel, State.streamed, packStream, hd]

/-- The pixels of a stream with no pair open, and END: pairs from the start, and a tail for an odd last pixel. -/
theorem State.closeStream_pushAll {s : State} (hs : s.state = .stream) (hp : s.phase = false) (hh : s.hold = 0)
    (ps : List Pixel) :
    (s.pushAll ps).closeStream = (s.streamed (packStream s.ctrl.bpp ps) ps.length).closeStream := by
  induction ps using pack12All.induct generalizing s with
  | case1 =>
    rw [packStream_nil, List.length_nil, State.streamed_nil]
    rfl
  | case2 p => exact State.closeStream_pushAll_single hs hp p
  | case3 p q ps ih =>
    have hsplit : s.pushAll (p :: q :: ps) = (s.streamed (packStream s.ctrl.bpp [p, q]) 2).pushAll ps := by
      rw [← State.pushAll_pair hp hh p q]
      rfl
    have hlen : (p :: q :: ps).length = 2 + ps.length := Nat.add_comm ps.length 2
    rw [hsplit, ih (s := s.streamed _ 2) hs hp hh, State.streamed_streamed, packStream_cons_cons _ p q ps, hlen]
    rfl

/-- A stream that begins in IDLE, emits an image and ends, has done what `emitImage` does. -/
theorem State.closeStream_streamed_openStream {s : State} (hs : s.state = .idle) (ps : List Pixel) :
    (s.openStream.streamed (packStream s.ctrl.bpp ps) ps.length).closeStream = s.emitImage ps.length ps := by
  simp [State.openStream, State.streamed, State.emit, State.closeStream, State.emitImage, State.clearCounts, hs]

/-- 42_packer R72: from IDLE, a PUSH of each pixel of a non-empty sequence and then END give the state that the packed
sequence and its counters give at once. -/
theorem runCommands_pushStream {s : State} (hs : s.state = .idle) {ps : List Pixel} (hps : ps ≠ []) :
    runCommands (ps.map (fun p => Instr.push p.r p.g p.b) ++ [.endStream]) s = .next (s.emitImage ps.length ps) := by
  obtain ⟨p, qs, rfl⟩ := List.exists_cons_of_ne_nil hps
  have hne : s.state ≠ .error := by simp [hs]
  have hopen : s.openStream.state = .stream := State.openStream_state hne
  have hphase : s.openStream.phase = false := by rw [State.openStream_of_idle hs]; rfl
  have hhold : s.openStream.hold = 0 := by rw [State.openStream_of_idle hs]; rfl
  rw [List.map_cons, List.cons_append, runCommands_cons (exec_push hne p.r p.g p.b), runCommands_pushes (by simpa using hopen),
    ← State.pushAll_cons, runCommands_cons (exec_endStream _), runCommands,
    State.closeStream_pushAll hopen hphase hhold, State.openStream_ctrl, State.closeStream_streamed_openStream hs]

/-! ## CONVERT as a stream -/

/-- A CONVERT that does not end in ERROR commits a header and packs its image. -/
theorem exec_convert_success {s t : State} (h : exec .convert s = .next t) (ht : t.state ≠ .error) :
    ∃ x, t = (s.commitHeader x).emitImage (pixelCount x) (imagePixels s.inMem s.ctrl x) := by
  cases exec_cases h with
  | ignored _ hs => exact absurd hs ht
  | decoderAbsent | convertInStream | headerShort | headerBad | convertTruncated => exact absurd rfl ht
  | convert x ps _ _ _ _ _ hps => exact ⟨x, by rw [State.eq_imagePixels_of_loadPixels hps]; rfl⟩

/-- Settles O45: what CONVERT emits at once is what the stream of its pixels emits. -/
theorem convertEqualsPushes : Obligations.ConvertEqualsPushes := by
  intro s t hs h ht
  obtain ⟨x, rfl⟩ := exec_convert_success h ht
  have hlen := imagePixels_length s.inMem s.ctrl x
  refine ⟨imagePixels s.inMem s.ctrl x, hlen, fun k hk => ?_, fun hne => ?_, fun he => ?_⟩
  · rw [hlen] at hk
    simp [imagePixels, hk]
  · rw [← hlen]
    exact runCommands_pushStream (s := s.commitHeader x) hs hne
  · rw [State.emitImage_eq, ← hlen, he]
    simp [packStream_nil, outLen_zero, State.commitHeader]

end Sys2Proof.Machine
end

section
/-!
The layouts of the pack functions (42_packer R64 to R67) as numbers and bits, and how a pixel sequence packs at each depth
(42_packer R68 to R70).
-/
namespace Sys2Proof.Machine

/-! ## The fields of a packed byte -/

/-- The high bits of one channel, kept in place, over a field that lies below them: their numbers add. -/
theorem toNat_topBits_or (x : Byte) {y : Byte} {k : Nat} (hy : y.toNat < 2 ^ k) :
    ((x &&& BitVec.allOnes 8 <<< k) ||| y).toNat = x.toNat / 2 ^ k * 2 ^ k + y.toNat := by
  have htop : (x &&& BitVec.allOnes 8 <<< k).toNat = (x.toNat / 2 ^ k) <<< k := by
    rw [← BitVec.shiftLeft_ushiftRight, BitVec.toNat_shiftLeft, BitVec.toNat_ushiftRight, Nat.shiftRight_eq_div_pow]
    refine Nat.mod_eq_of_lt ?_
    rw [Nat.shiftLeft_eq]
    exact (Nat.div_mul_le_self _ _).trans_lt x.isLt
  rw [BitVec.toNat_or, htop, ← Nat.shiftLeft_add_eq_or_of_lt hy, Nat.shiftLeft_eq]

theorem toNat_shiftRight_byte (x : Byte) (k : Nat) : (x >>> k).toNat = x.toNat / 2 ^ k := by
  rw [BitVec.toNat_ushiftRight, Nat.shiftRight_eq_div_pow]

/-- A byte of two channels, each giving the bits that its place has room for. -/
theorem toNat_topBits_or_shiftRight (x y : Byte) {k l : Nat} (hkl : k + l = 8) :
    ((x &&& BitVec.allOnes 8 <<< k) ||| (y >>> l)).toNat = x.toNat / 2 ^ k * 2 ^ k + y.toNat / 2 ^ l := by
  have hy : y.toNat < 2 ^ l * 2 ^ k := by
    rw [← Nat.pow_add, Nat.add_comm l k, hkl]
    exact y.isLt
  rw [toNat_topBits_or x (by rw [toNat_shiftRight_byte]; exact Nat.div_lt_of_lt_mul hy), toNat_shiftRight_byte]

/-- Masking the low `k` bits is the remainder by `2 ^ k`. -/
theorem toNat_and_lowMask (x m : Byte) {k : Nat} (hm : m.toNat = 2 ^ k - 1) : (x &&& m).toNat = x.toNat % 2 ^ k := by
  rw [BitVec.toNat_and, hm, Nat.and_two_pow_sub_one_eq_mod]

/-- Settles O27: red over green over blue. Green, moved down by three, has no bit above its field, so the mask of the field
is the mask of all bits from its lowest up. -/
theorem packEightLayout : Obligations.PackEightLayout := by
  intro p
  refine ⟨_, rfl, rfl, ?_⟩
  have hblue : ((p.b >>> 6) &&& 0x03#8).toNat = p.b.toNat / 64 := by
    rw [toNat_and_lowMask (k := 2) _ _ rfl, toNat_shiftRight_byte]
    omega
  have hgreen : (p.g >>> 3) &&& 0x1C#8 = (p.g >>> 3) &&& BitVec.allOnes 8 <<< 2 := by
    generalize p.g = g
    revert g
    decide
  have hlow : (((p.g >>> 3) &&& 0x1C#8) ||| ((p.b >>> 6) &&& 0x03#8)).toNat = p.g.toNat / 32 * 4 + p.b.toNat / 64 := by
    rw [hgreen, toNat_topBits_or _ (by omega), hblue, toNat_shiftRight_byte]
    omega
  rw [BitVec.or_assoc, Nat.add_assoc, ← hlow]
  exact toNat_topBits_or (k := 5) p.r (by omega)

/-- Settles O28: each of the three bytes holds the high nibbles of two channels. -/
theorem packTwelveLayout : Obligations.PackTwelveLayout := by
  intro p q
  have hnibbles (x y : Byte) : ((x &&& 0xF0#8) ||| (y >>> 4)).toNat = x.toNat / 16 * 16 + y.toNat / 16 :=
    toNat_topBits_or_shiftRight (k := 4) (l := 4) x y rfl
  exact ⟨_, _, _, rfl, rfl, hnibbles p.r p.g, hnibbles p.b q.r, hnibbles q.g q.b⟩

/-- Settles O29: byte1 by its two fields, byte2 as the or of two numbers and, where its fields overlap, bit by bit. -/
theorem packSixteenLayout : Obligations.PackSixteenLayout := by
  intro p
  refine ⟨_, _, rfl, toNat_topBits_or_shiftRight (k := 3) (l := 5) p.r p.g rfl, ?_, ?_⟩
  · rw [BitVec.toNat_or, toNat_and_lowMask (k := 5) _ _ rfl, toNat_shiftRight_byte, BitVec.toNat_shiftLeft, Nat.shiftLeft_eq]
    rfl
  · simp

/-! ## Sequences -/

/-- Pairs from the start, by their number, and a tail for an odd last pixel (42_packer R69). -/
theorem pack12All_eq (d : Pixel) (ps : List Pixel) :
    pack12All ps =
      (List.range (ps.length / 2)).flatMap (fun m => pack12Pair (ps.getD (2 * m) d) (ps.getD (2 * m + 1) d)) ++
      (if ps.length % 2 = 1 then pack12Tail (ps.getD (ps.length - 1) d) else []) := by
  induction ps using pack12All.induct with
  | case1 => rfl
  | case2 p => simp [pack12All]
  | case3 p q ps ih =>
    have hhalf : (p :: q :: ps).length / 2 = ps.length / 2 + 1 := Nat.add_div_right ps.length Nat.zero_lt_two
    have hpar : (p :: q :: ps).length % 2 = ps.length % 2 := Nat.add_mod_right ps.length 2
    have htail : (if ps.length % 2 = 1 then pack12Tail ((p :: q :: ps).getD ((p :: q :: ps).length - 1) d) else []) =
        (if ps.length % 2 = 1 then pack12Tail (ps.getD (ps.length - 1) d) else []) := by
      split
      · obtain ⟨n, hn⟩ : ∃ n, ps.length = n + 1 := ⟨ps.length - 1, by omega⟩
        simp [hn]
      · rfl
    rw [pack12All, ih, hhalf, hpar, htail, List.range_succ_eq_map, List.flatMap_cons, List.flatMap_map, List.append_assoc]
    simp [Nat.mul_add]

/-- Settles O30: at 12 bpp by the pairs' numbers, at the other depths by definition. -/
theorem packStreamSequence : Obligations.PackStreamSequence :=
  fun ps => ⟨rfl, rfl, rfl, pack12All_eq ⟨0, 0, 0⟩ ps⟩

/-- Settles O31, by the length rule at each depth. -/
theorem packStreamLength : Obligations.PackStreamLength :=
  fun ps => ⟨packStream_length .bpp8 ps, packStream_length .bpp12 ps, packStream_length .bpp16 ps,
    packStream_length .bpp24 ps⟩

end Sys2Proof.Machine
end

section
/-!
PUSH (42_packer R71): the words that decode to it, the pixel it packs at each depth, and what it leaves unchanged.
-/
namespace Sys2Proof.Machine

/-! ## What a pixel's PUSH answers -/

/-- The bits of PUSH's mask below the OP field are reserved: a word with one of them set misses the row (30_encoding R37). -/
theorem extractLsb'_of_matches_push {w : Word} (h : w &&& Op.push.mask = Op.push.pattern) : w.extractLsb' 24 4 = 0 := by
  have hand : (w &&& Op.push.mask).extractLsb' 24 4 = w.extractLsb' 24 4 &&& Op.push.mask.extractLsb' 24 4 :=
    BitVec.extractLsb'_and
  have hmask : Op.push.mask.extractLsb' 24 4 = BitVec.allOnes 4 := by decide
  rw [hmask, BitVec.and_allOnes, h] at hand
  exact hand.symm

theorem exec_push_of_error {s : State} (hs : s.state = .error) (r g b : Byte) : exec (.push r g b) s = .next s :=
  State.unlessError_of_error hs

/-- The first pixel of a 12 bpp pair: its blue nibble waits in HOLD. -/
theorem State.push12_of_first {s : State} (h : s.phase = false) (p : Pixel) :
    s.push12 p = { s.emit [pack12First p] with hold := p.b.extractLsb' 4 4, phase := true } := by
  rw [State.push12, if_pos h, BitVec.setWidth_ushiftRight_eq_extractLsb]

theorem State.push12_of_second {s : State} (h : s.phase = true) (p : Pixel) :
    s.push12 p =
      { s.emit [(s.hold.setWidth 8 <<< 4) ||| (p.r >>> 4), (p.g &&& 0xF0#8) ||| (p.b >>> 4)] with
        hold := 0, phase := false } := by
  simp [State.push12, h]

/-- Settles O32: `b` is `openStream` of the state, and at each depth and phase `packOne` has one equation. -/
theorem pushPacksOnePixel : Obligations.PushPacksOnePixel := by
  refine ⟨fun p w x y z => ?_, fun s w hf hw hs => ?_, fun s x y z hs => exec_push_of_error hs x y z,
    fun s b x y z hs hidle hstream => ?_⟩
  · simp [decode_eq_ok_iff_op, Instr.op, Op.needsDecoder, Op.fields, Op.mask, Op.pattern]
  · exact State.execute_of_illegal (decode_of_reservedBit (o := .push) rfl hf (mt extractLsb'_of_matches_push hw)) hs
  · have hb : s.openStream = b := by
      cases h : s.state with
      | idle => rw [State.openStream_of_idle h, hidle h]; rfl
      | stream => rw [State.openStream_of_stream h, hstream h]
      | error => exact absurd h hs
    have hctrl : b.ctrl = s.ctrl := by rw [← hb, State.openStream_ctrl]
    rw [exec_push hs, hb, ← hctrl]
    refine ⟨fun hd => ?_, fun hd => ?_, fun hd => ?_, fun hd hp => ?_, fun hd hp => ?_⟩ <;> rw [State.packOne, hd]
    · rfl
    · rfl
    · rfl
    · simp only [State.push12_of_first hp]; rfl
    · simp only [State.push12_of_second hp]; rfl

/-! ## What PUSH leaves unchanged -/

theorem Effect.push_cases {s t : State} {r g b : Byte} (h : Effect s (.push r g b) t) :
    (s.state = .error ∧ t = s) ∨ (s.state ≠ .error ∧ t = (s.openStream.packOne ⟨r, g, b⟩).countPixel) := by
  cases h with
  | ignored _ hs => exact .inl ⟨hs, rfl⟩
  | push _ _ _ hs => exact .inr ⟨hs, rfl⟩
  | decoderAbsent _ _ _ hi => simp at hi
  | headerShort _ hc | headerBad _ _ _ _ hc => exact absurd rfl hc.op_ne_push

theorem State.packOne_of_ne_bpp12 {s : State} (hd : s.ctrl.bpp ≠ .bpp12) (p : Pixel) : ∃ bs, s.packOne p = s.emit bs := by
  obtain ⟨bs, -, ⟨-, h⟩ | ⟨hd', -⟩ | ⟨hd', -⟩⟩ := s.packOne_cases p
  · exact ⟨bs, h⟩
  · exact absurd hd' hd
  · exact absurd hd' hd

/-- Settles O51: in ERROR nothing happens; elsewhere the stream is opened, the pixel packed and counted. -/
theorem pushFrame : Obligations.PushFrame := by
  intro x y z s t h
  rcases (exec_cases h).push_cases with ⟨-, rfl⟩ | ⟨-, rfl⟩
  · exact ⟨rfl, rfl, rfl, rfl, rfl, rfl, rfl, ⟨[], (List.append_nil _).symm⟩, fun _ => rfl, fun _ _ => ⟨rfl, rfl⟩⟩
  · obtain ⟨bs, -, hout, -⟩ := s.openStream.packOne_emits ⟨x, y, z⟩
    refine ⟨by simp, by simp, by simp, by simp, by simp, by simp, by simp, ⟨bs, by simpa using hout⟩, by simp,
      fun hd hs => ?_⟩
    obtain ⟨cs, hcs⟩ := State.packOne_of_ne_bpp12 hd ⟨x, y, z⟩
    simp [State.openStream_of_stream hs, hcs]

end Sys2Proof.Machine
end

section
/-!
A stream of PUSHes (42_packer R72): alone, and with NOPs, successful header decodes, register reads, IN_LEN writes and drains
between the pushes. Neither those steps nor the parts of the state they change matter to the stream, so the host's run is a
run of the PUSHes on the state with those parts set aside.
-/
namespace Sys2Proof.Machine

/-- Settles O33, by the effect of the whole stream and the fields `emitImage` writes. -/
theorem pushStreamPacksSequence : Obligations.PushStreamPacksSequence := by
  intro s ps hs hps
  rw [runCommands_pushStream hs hps, State.emitImage_eq]

/-! ## The state of a stream, what the host may do in between set aside -/

/-- The state with the header bank, IN_LEN and the values read set aside, and with the bytes already drained put back in
front of OUT. -/
def State.streamView (s : State) : State :=
  { s with hdr := Header.zero, hdrValid := false, inLen := 0, readData := [], drained := [], out := s.drained ++ s.out }

@[simp] theorem State.streamView_state (s : State) : s.streamView.state = s.state := rfl

theorem State.streamView_openStream (s : State) : s.streamView.openStream = s.openStream.streamView := by
  cases hs : s.state with
  | idle => rw [State.openStream_of_idle hs, State.openStream_of_idle (s := s.streamView) hs]; rfl
  | stream => rw [State.openStream_of_stream hs, State.openStream_of_stream (s := s.streamView) hs]
  | error => simp [State.openStream, hs]

theorem State.streamView_closeStream (s : State) : s.streamView.closeStream = s.closeStream.streamView := by
  by_cases hs : s.state = .stream
  · rw [State.closeStream_of_stream hs, State.closeStream_of_stream (s := s.streamView) hs]; rfl
  · rw [State.closeStream_of_ne hs, State.closeStream_of_ne (s := s.streamView) hs]

theorem State.streamView_emit (s : State) (bs : List Byte) : s.streamView.emit bs = (s.emit bs).streamView := by
  simp [State.emit, State.streamView]

theorem State.streamView_push12 (s : State) (p : Pixel) : s.streamView.push12 p = (s.push12 p).streamView := by
  cases hp : s.phase with
  | false => rw [State.push12_of_first hp, State.push12_of_first (s := s.streamView) hp, State.streamView_emit]; rfl
  | true => rw [State.push12_of_second hp, State.push12_of_second (s := s.streamView) hp, State.streamView_emit]; rfl

/-- Packing a pixel looks at none of the parts set aside. -/
theorem State.streamView_packOne (s : State) (p : Pixel) : s.streamView.packOne p = (s.packOne p).streamView := by
  have hd : s.streamView.ctrl.bpp = s.ctrl.bpp := rfl
  rw [State.packOne, State.packOne, hd]
  cases s.ctrl.bpp with
  | bpp8 | bpp16 | bpp24 => exact s.streamView_emit _
  | bpp12 => exact s.streamView_push12 p

theorem State.drainOut_streamView (s : State) (k : Nat) : (s.drainOut k).streamView = s.streamView := by
  simp [State.streamView, State.drainOut]

/-! ## Host steps as PUSHes -/

/-- The PUSHes of a pixel sequence. -/
abbrev pushes (ps : List Pixel) : List Instr := ps.map fun p => .push p.r p.g p.b

/-- A decode in some build is the decode in the build with every command. -/
theorem decode_withDecoder_of_decode {p : Params} {w : Word} {i : Instr} (h : decode p w = .ok i) :
    decode ⟨true⟩ w = .ok i := by
  obtain ⟨o, hm, -, hi⟩ := decode_eq_ok_iff.1 h
  exact decode_eq_ok_iff.2 ⟨o, hm, fun _ => rfl, hi⟩

/-- The command words that may stand in a stream (42_packer R72). -/
theorem HostStep.streamPixels_of_writesCmd {h : HostStep} {w : Word} {i : Instr} {ps : List Pixel} (hw : WritesCmd h w)
    (hd : decode ⟨true⟩ w = .ok i) (hps : h.streamPixels = some ps) :
    (∃ r g b, i = .push r g b ∧ ps = [⟨r, g, b⟩]) ∨ ((i = .nop ∨ i = .decodeHeader) ∧ ps = []) := by
  rcases hw with rfl | ⟨b0, b1, b2, b3, rfl, -⟩
  · rw [HostStep.streamPixels, if_pos ⟨rfl, rfl⟩, hd] at hps
    cases i with
    | push r g b => exact .inl ⟨r, g, b, rfl, (Option.some.inj hps).symm⟩
    | nop => exact .inr ⟨.inl rfl, (Option.some.inj hps).symm⟩
    | decodeHeader => exact .inr ⟨.inr rfl, (Option.some.inj hps).symm⟩
    | config | endStream | convert | reset => cases hps
  · cases hps

/-- A write of a register other than CMD and IN_LEN does not stand in a stream. -/
theorem HostStep.streamPixels_write_other {offset : Nat} (v : Word) (h0 : offset ≠ 0x00) (h1 : offset ≠ 0x1C) :
    (HostStep.write 4 offset v).streamPixels = none := by
  simp [HostStep.streamPixels, h0, h1]

theorem exec_push_streamView {s : State} (hs : s.state ≠ .error) (r g b : Byte) :
    exec (.push r g b) s.streamView = .next (s.openStream.packOne ⟨r, g, b⟩).countPixel.streamView := by
  rw [exec_push (s := s.streamView) hs, State.streamView_openStream, State.streamView_packOne]
  rfl

/-- A NOP, and a header decode that does not raise, change nothing that a stream looks at. -/
theorem Effect.streamView_eq {s t : State} {i : Instr} (h : Effect s i t) (hi : i = .nop ∨ i = .decodeHeader)
    (ht : t.state ≠ .error) : s.state ≠ .error ∧ t.streamView = s.streamView := by
  cases h with
  | config | configInStream | configNoPacker | push | endStream | reset | convert | convertInStream | convertTruncated =>
    simp at hi
  | ignored _ hs => exact absurd hs ht
  | decoderAbsent | headerShort | headerBad => exact absurd rfl ht
  | nop | headerGood => exact ⟨ht, rfl⟩

/-- A host step that may stand in a stream does to the stream what the PUSHes of its pixels do, unless it ends in ERROR. -/
theorem HostEffect.runs_pushes {s t : State} {h : HostStep} {ps : List Pixel} (he : HostEffect s h t)
    (hps : h.streamPixels = some ps) (ht : t.state ≠ .error) :
    s.state ≠ .error ∧ runCommands (pushes ps) s.streamView = .next t.streamView := by
  cases he with
  | command _ w i _ hw hd he =>
    rcases HostStep.streamPixels_of_writesCmd hw (decode_withDecoder_of_decode hd) hps with ⟨r, g, b, rfl, rfl⟩ | ⟨hi, rfl⟩
    · rcases he.push_cases with ⟨hs, rfl⟩ | ⟨hs, rfl⟩
      · exact absurd hs ht
      · exact ⟨hs, runCommands_cons (exec_push_streamView hs r g b)⟩
    · obtain ⟨hs, hv⟩ := he.streamView_eq hi ht
      exact ⟨hs, by rw [hv]; rfl⟩
  | illegal => exact absurd rfl ht
  | illegalIgnored _ _ _ _ _ hs => exact absurd hs ht
  | writeIgnored offset v h0 h1 => rw [HostStep.streamPixels_write_other v h0 h1] at hps; cases hps
  | inLen | read => cases hps; exact ⟨ht, rfl⟩
  | drain k => cases hps; exact ⟨ht, by rw [State.drainOut_streamView]; rfl⟩
  | setIn | hardwareReset => cases hps

/-! ## The whole run -/

theorem streamPixels_cons {h : HostStep} {hs : List HostStep} {ps : List Pixel} (hps : streamPixels (h :: hs) = some ps) :
    ∃ qs rs, h.streamPixels = some qs ∧ streamPixels hs = some rs ∧ ps = qs ++ rs := by
  rw [streamPixels] at hps
  split at hps
  · exact ⟨_, _, ‹_›, ‹_›, (Option.some.inj hps).symm⟩
  · cases hps

theorem runHost_cons {h : HostStep} {hs : List HostStep} {s t : State} (hr : runHost (h :: hs) s = .next t) :
    ∃ u, s.hostStep h = .next u ∧ runHost hs u = .next t := by
  rw [runHost] at hr
  split at hr
  · exact ⟨_, ‹_›, hr⟩
  · cases hr
  · cases hr

/-- A run of commands goes on from where its first part ends. -/
theorem runCommands_append {is : List Instr} {s t : State} (h : runCommands is s = .next t) (js : List Instr) :
    runCommands (is ++ js) s = runCommands js t := by
  induction is generalizing s with
  | nil => rw [← next_inj.1 h]; rfl
  | cons i is ih =>
    rw [runCommands] at h
    split at h
    · rw [List.cons_append, runCommands_cons ‹_›, ih h]
    · cases h
    · cases h

/-- The host's run does to the stream what the PUSHes of its pixels do. ERROR, once entered, would last to the end. -/
theorem runHost_runs_pushes {hs : List HostStep} {ps : List Pixel} {s t : State} (hps : streamPixels hs = some ps)
    (hr : runHost hs s = .next t) (ht : t.state ≠ .error) :
    s.state ≠ .error ∧ runCommands (pushes ps) s.streamView = .next t.streamView := by
  induction hs generalizing s ps with
  | nil => cases hps; cases next_inj.1 hr; exact ⟨ht, rfl⟩
  | cons h hs ih =>
    obtain ⟨qs, rs, hq, hrs, rfl⟩ := streamPixels_cons hps
    obtain ⟨u, hu, hr⟩ := runHost_cons hr
    obtain ⟨hus, hrest⟩ := ih hrs hr
    obtain ⟨hss, hfirst⟩ := (hostStep_cases hu).runs_pushes hq hus
    exact ⟨hss, by rw [pushes, List.map_append, runCommands_append hfirst, hrest]⟩

/-- Settles O34: END after the host's run is END after the PUSHes alone, whose whole effect is known. -/
theorem interleavedStreamPacksSequence : Obligations.InterleavedStreamPacksSequence := by
  intro s t hs ps hidle hps hne hr ht
  obtain ⟨-, hrun⟩ := runHost_runs_pushes hps hr ht
  have hview : t.closeStream.streamView = s.streamView.emitImage ps.length ps := by
    rw [← next_inj, ← runCommands_pushStream (s := s.streamView) hidle hne, runCommands_append hrun,
      runCommands_cons (exec_endStream _), State.streamView_closeStream]
    rfl
  rw [State.emitImage_eq] at hview
  exact ⟨t.closeStream, exec_endStream t, (congrArg State.state hview).trans hidle, congrArg State.phase hview,
    congrArg State.hold hview, congrArg State.out hview, congrArg State.pixcnt hview, congrArg State.bytecnt hview⟩

end Sys2Proof.Machine
end

section
/-!
The error conditions (60_exceptions): how a command enters ERROR, with which code and what becomes of the header bank, and
what ERROR ignores and what ends it.
-/
namespace Sys2Proof.Machine

/-! ## The way into ERROR -/

/-- The kinds a command raises before it has looked at IN (60_exceptions R73). -/
def directErrors (p : Params) : Instr → List ErrKind
  | .nop => []
  | .config _ _ _ => [.unsupportedOutputBpp, .sequenceError]
  | .push _ _ _ => []
  | .endStream => []
  | .decodeHeader => if p.hasBmpDecoder then [] else [.illegalCommand]
  | .convert => if p.hasBmpDecoder then [.sequenceError] else [.illegalCommand]
  | .reset _ => []

/-- The three ways a command enters ERROR, by what becomes of the header bank. -/
inductive EntersError (s : State) (i : Instr) : State → Prop
  | bankKept (e : ErrKind) (info : Word) (he : e ∈ directErrors s.params i) : EntersError s i (s.raise e info)
  | bankCleared (e : ErrKind) (info : Word) (hc : HeaderCommand s i) (he : e.code.toNat ∈ [1, 2, 3, 4, 5]) :
      EntersError s i (s.clearHeaderBank.raise e info)
  | bankCommitted (h : Header) (info : Word) (hi : i = .convert) (hp : s.params.hasBmpDecoder = true)
      (hh : HeaderAt s.inMem h) (hv : h.Valid) : EntersError s i ((s.commitHeader h).raise .truncatedData info)

/-- The "must equal" checks have the first four codes (41_bmp_decoder R53). -/
theorem headerFailure_code_toNat {h : Header} {e : ErrKind} {info : Word} (hf : headerFailure h = some (e, info)) :
    e.code.toNat ∈ [1, 2, 3, 4] := by
  unfold headerFailure at hf
  split_ifs at hf <;> cases hf <;> decide

theorem State.closeStream_state_ne_error {s : State} (hs : s.state ≠ .error) : s.closeStream.state ≠ .error := by
  by_cases h : s.state = .stream
  · simp [State.closeStream_of_stream h]
  · rwa [State.closeStream_of_ne h]

theorem Effect.entersError {s t : State} {i : Instr} (h : Effect s i t) (hs : s.state ≠ .error) (ht : t.state = .error) :
    EntersError s i t := by
  cases h with
  | ignored _ he => exact absurd he hs
  | nop | config | headerGood | convert => exact absurd ht hs
  | push r g b => simp [State.openStream_state hs] at ht
  | endStream => exact absurd ht (State.closeStream_state_ne_error hs)
  | reset => cases ht
  | configInStream | configNoPacker => exact .bankKept _ _ (by simp [directErrors])
  | decoderAbsent _ _ hp hi => exact .bankKept _ _ (by rcases hi with rfl | rfl <;> simp [directErrors, hp])
  | convertInStream _ hp => exact .bankKept _ _ (by simp [directErrors, hp])
  | headerShort _ hc => exact .bankCleared _ _ hc (by decide)
  | headerBad _ _ _ _ hc _ _ hf =>
    exact .bankCleared _ _ hc (List.mem_append_left [5] (headerFailure_code_toNat hf))
  | convertTruncated h hc _ hh hf => exact .bankCommitted h _ rfl hc.decoder hh (headerFailure_eq_none.1 hf)

/-- Settles O46: the codes of the header checks come from the two header commands alone. -/
theorem codesRaisedByCommands : Obligations.CodesRaisedByCommands := by
  intro i s t hs h ht
  cases (exec_cases h).entersError hs ht with
  | bankKept e info he =>
    cases i with
    | nop | push | endStream | reset => cases he
    | config => rcases List.mem_pair.1 he with rfl | rfl <;> simp [ErrKind.code]
    | decodeHeader =>
      rw [directErrors] at he
      split at he
      · cases he
      · cases List.mem_singleton.1 he; simp [*, ErrKind.code]
    | convert =>
      rw [directErrors] at he
      split at he <;> (cases List.mem_singleton.1 he; simp [*, ErrKind.code])
  | bankCleared e info hc he =>
    have hp := hc.decoder
    rcases hc.decodeHeader_or_convert with rfl | rfl
    · simpa [hp] using he
    · simpa [hp] using List.mem_append_left [10] he
  | bankCommitted h info hi hp =>
    subst hi
    simp [hp, ErrKind.code]

/-- Settles O47: an illegal word and a command that enters ERROR differ only in what becomes of the bank. -/
theorem errorsArePrecise : Obligations.ErrorsArePrecise := by
  intro w s t hs h ht
  rcases execute_cases h with ⟨i, hd, he⟩ | ⟨_, _, ⟨he, _⟩ | ⟨_, rfl⟩⟩
  · obtain ⟨hm, -, -⟩ := decode_eq_ok_iff_op.1 hd
    have hop : opField w = opField i.op.pattern := opField_of_matches hm
    cases he.entersError hs ht with
    | bankKept => exact ⟨rfl, .inl ⟨rfl, rfl⟩⟩
    | bankCleared e info hc hcode =>
      have hrow : opField w = 4 ∨ opField w = 5 := by
        rw [hop]
        rcases hc.decodeHeader_or_convert with rfl | rfl <;> decide
      exact ⟨rfl, .inr (.inl ⟨hrow, hcode, rfl, rfl⟩)⟩
    | bankCommitted h info hi _ hh hv => exact ⟨rfl, .inr (.inr ⟨hop.trans (hi ▸ rfl), rfl, rfl, hh, hv⟩)⟩
  · exact absurd he hs
  · exact ⟨rfl, .inl ⟨rfl, rfl⟩⟩

/-! ## Inside ERROR -/

theorem exec_of_error {s : State} {i : Instr} (hs : s.state = .error) (hi : ∀ x, i ≠ .reset x) : exec i s = .next s := by
  cases i with
  | nop | config | push | endStream | decodeHeader | convert => exact State.unlessError_of_error hs
  | reset x => exact absurd rfl (hi x)

theorem State.execute_of_error {s : State} {w : Word} (hs : s.state = .error) (hw : opField w ≠ 0xF) :
    s.execute w = .next s := by
  cases hd : decode s.params w with
  | error e => exact State.execute_of_illegal_in_error hd hs
  | ok i =>
    obtain ⟨hm, -, -⟩ := decode_eq_ok_iff_op.1 hd
    rw [State.execute_of_ok hd, exec_of_error hs]
    rintro x rfl
    exact hw (opField_of_matches (o := .reset) hm)

/-- Settles O48: only RESET's meaning is outside the gate, and the port and OUT do not look at STATE. -/
theorem errorStateIgnoresCommands : Obligations.ErrorStateIgnoresCommands := by
  refine fun s hs => ⟨fun w => State.execute_of_error hs, fun i => exec_of_error hs, fun offset rest ha hr hh => ?_,
    fun v rest => inLenWrite s v rest, fun k rest hk hh => ?_⟩
  · exact (step_of_host hh).trans ((State.portRead_eq _ 4 offset).trans (if_neg (by omega)))
  · exact (step_of_host hh).trans (if_pos hk)

/-! ## The ways out of ERROR -/

/-- The OP field of a word on a byte-wide bus is the high nibble of the last byte (20_memory R28, 30_encoding R36). -/
theorem opField_wordOfBytes_toNat (b0 b1 b2 b3 : Byte) : (opField (wordOfBytes b0 b1 b2 b3)).toNat = b3.toNat / 16 := by
  simp only [opField, BitVec.extractLsb'_toNat, Nat.shiftRight_eq_div_pow, toNat_wordOfBytes]
  omega

theorem Effect.leaves_error {s t : State} {i : Instr} (h : Effect s i t) (hs : s.state = .error) (ht : t.state ≠ .error) :
    (∃ x, i = .reset x) ∧ t = s.cmdReset := by
  cases h with
  | ignored => exact absurd hs ht
  | reset x => exact ⟨⟨x, rfl⟩, rfl⟩
  | nop hne | push _ _ _ hne | endStream hne | decoderAbsent _ hne => exact absurd hs hne
  | configInStream _ _ _ h | configNoPacker _ _ _ h | config _ _ _ _ h | convertInStream h => cases hs.symm.trans h
  | headerShort _ hc | headerBad _ _ _ _ hc | headerGood _ hc | convertTruncated _ hc | convert _ _ hc =>
    exact absurd hs hc.1

/-- A host step that leaves ERROR is hardware reset or writes a word with OP 0xF to CMD. -/
theorem HostEffect.leaves_error {s t : State} {h : HostStep} (he : HostEffect s h t) (hs : s.state = .error)
    (ht : t.state ≠ .error) :
    (h = .hardwareReset ∧ t = s.hwReset) ∨ (∃ w, WritesCmd h w ∧ opField w = 0xF) ∧ t = s.cmdReset := by
  cases he with
  | command _ w i _ hw hd he =>
    obtain ⟨⟨x, rfl⟩, rfl⟩ := he.leaves_error hs ht
    obtain ⟨hreset, -⟩ := resetCommand
    exact .inr ⟨⟨w, hw, (hreset s.params w).2 ⟨x, hd⟩⟩, rfl⟩
  | illegal _ w e hw hd hne => exact absurd hs hne
  | illegalIgnored | inLen | writeIgnored | read | setIn | drain => exact absurd hs ht
  | hardwareReset => exact .inl ⟨rfl, rfl⟩

/-- Settles O49: taking a step off the host's list does not leave ERROR, and both resets write 0 to the error registers. -/
theorem onlyResetsLeaveError : Obligations.OnlyResetsLeaveError := by
  intro s t hs h ht
  rcases step_cases h with ⟨-, rfl⟩ | ⟨x, rest, hh, hx⟩
  · exact absurd hs ht
  · rcases hx.leaves_error hs ht with ⟨rfl, rfl⟩ | ⟨⟨w, hw, hop⟩, rfl⟩
    · exact ⟨rfl, rfl, rfl, _, rest, hh, .inl rfl⟩
    · refine ⟨rfl, rfl, rfl, x, rest, hh, .inr ?_⟩
      rcases hw with rfl | ⟨b0, b1, b2, b3, rfl, rfl⟩
      · exact .inl ⟨w, rfl, hop⟩
      · exact .inr ⟨b0, b1, b2, b3, rfl, by rw [← opField_wordOfBytes_toNat b0 b1 b2 b3, hop]; rfl⟩

end Sys2Proof.Machine
end

section
/-!
Reset and the wait for the host (70_reset_and_hazards R83, R84): the reset values as the port reads them, the step with no host
step left, both invariants at reset, and the first PUSH after either reset.
-/
namespace Sys2Proof.Machine

/-! ## The wait -/

/-- Settles O19: the step's equation for an empty list of host steps. -/
theorem waitsForHost : Obligations.WaitsForHost := by
  intro s h
  simp only [step, h]

/-! ## The reset values -/

theorem Ctrl.reset_word : Ctrl.reset.word = 0x0000000C := by decide

theorem regRead_ctrl_resetWith (p : Params) : (State.resetWith p).regRead 0x04 = 0x0000000C := Ctrl.reset_word

/-- STATUS shows DEC alone: every other field of it is 0 at reset (10_state R10). -/
theorem regRead_status_resetWith (p : Params) :
    (State.resetWith p).regRead 0x08 = if p.hasBmpDecoder then 0x00000010 else 0x00000000 := by
  obtain ⟨_ | _⟩ := p <;> rfl

theorem regRead_zero_resetWith (p : Params) :
    [0x0C, 0x10, 0x14, 0x18, 0x1C, 0x20, 0x24, 0x28, 0x2C, 0x30, 0x34, 0x38, 0x3C, 0x40, 0x44, 0x48, 0x4C, 0x50, 0x54].map
      (State.resetWith p).regRead = List.replicate 19 0 := rfl

/-- Hardware reset gives every register its reset value; IN, the build and what belongs to the host stay. -/
theorem State.hwReset_eq (s : State) :
    s.hwReset =
      { State.resetWith s.params with inMem := s.inMem, host := s.host, readData := s.readData, drained := s.drained } := rfl

/-- Settles O25: the table register by register, hardware reset as a host step, and RESET's answer from O24. -/
theorem resetValues : Obligations.ResetValues := by
  obtain ⟨-, hreset⟩ := resetCommand
  refine ⟨fun p => ?_, fun s rest h => ?_, hreset⟩
  · exact ⟨regRead_ctrl_resetWith p, regRead_status_resetWith p, regRead_zero_resetWith p, rfl, rfl, waitsForHost _ rfl⟩
  · rw [step_of_host h, State.hostStep, State.hwReset_eq]

/-! ## The invariants at reset -/

theorem State.inv_resetWith (p : Params) : (State.resetWith p).Inv where
  noError := fun _ => ⟨rfl, rfl⟩
  errorCode := nofun
  phaseOpen := nofun
  holdClear := fun _ => rfl
  bankClear := fun _ => rfl
  bankChecked := nofun
  bankAbsent := fun _ => rfl
  memory := rfl

/-- Settles O57: every register is clear, and no stream is open. -/
theorem resetMeetsInvariants : Obligations.ResetMeetsInvariants :=
  fun p => ⟨State.inv_resetWith p, State.countsAgree_of_ne nofun⟩

/-! ## The first PUSH -/

/-- A PUSH that opens a 12 bpp stream emits byte1 of its pair and leaves its blue nibble in HOLD (42_packer R71). -/
theorem exec_push_of_idle_bpp12 {s : State} (hs : s.state = .idle) (hd : s.ctrl.bpp = .bpp12) (x y z : Byte) :
    exec (.push x y z) s = .next
      { s with
        out := s.out ++ [(x &&& 0xF0#8) ||| (y >>> 4)], bytecnt := 1, pixcnt := 1, phase := true,
        hold := z.extractLsb' 4 4, state := .stream } := by
  obtain ⟨-, -, -, hpush⟩ := pushPacksOnePixel
  obtain ⟨-, -, -, hfirst, -⟩ := hpush s _ x y z (by simp [hs]) (fun _ => rfl) (fun h => nomatch hs.symm.trans h)
  exact hfirst hd rfl

theorem toNat_highNibble (b : Byte) : (b.extractLsb' 4 4).toNat = b.toNat / 16 := by
  rw [BitVec.extractLsb'_toNat, Nat.shiftRight_eq_div_pow]
  omega

/-- Settles O26: either reset leaves the block IDLE at 12 bpp with OUT empty, and there a PUSH opens a stream. -/
theorem firstPushAfterReset : Obligations.FirstPushAfterReset := by
  intro s r x y z hr
  obtain ⟨hidle, hctrl, hout⟩ : r.state = .idle ∧ r.ctrl = Ctrl.reset ∧ r.out = [] := by
    rcases hr with rfl | rfl <;> exact ⟨rfl, rfl, rfl⟩
  have hbpp : r.ctrl.bpp = .bpp12 := by rw [hctrl]; rfl
  exact ⟨_, exec_push_of_idle_bpp12 hidle hbpp x y z, rfl, hbpp, rfl, toNat_highNibble z, by simp [hout], rfl, rfl⟩

end Sys2Proof.Machine
end

section
/-!
What stops the machine (logs 5, 6, 7): every command word runs to completion, and each other step of the host either completes
or is one the interface does not have.
-/
namespace Sys2Proof.Machine

/-! ## Each step of the host completes or is stopped -/

/-- A command word runs to completion, legal or not (40_control R45). -/
theorem State.execute_completes (s : State) (w : Word) : ∃ t, s.execute w = .next t := by
  unfold State.execute
  split
  · exact everyCommandCompletes _ s
  · exact s.unlessError_completes ⟨_, rfl⟩

theorem State.portWrite_completes_or_refused (s : State) (size offset : Nat) (v : Word) :
    (∃ t, s.portWrite size offset v = .next t) ∨
    (s.portWrite size offset v = .refused .portAccess ∧ (size ≠ 4 ∨ offset % 4 ≠ 0 ∨ 0x100 ≤ offset)) := by
  rw [State.portWrite_eq]
  split
  · exact .inr ⟨rfl, ‹_›⟩
  · left
    split
    · exact s.execute_completes v
    · split <;> exact ⟨_, rfl⟩

theorem State.portRead_completes_or_refused (s : State) (size offset : Nat) :
    (∃ t, s.portRead size offset = .next t) ∨
    (s.portRead size offset = .refused .portAccess ∧ (size ≠ 4 ∨ offset % 4 ≠ 0 ∨ 0x100 ≤ offset)) := by
  rw [State.portRead_eq]
  split
  · exact .inr ⟨rfl, ‹_›⟩
  · exact .inl ⟨_, rfl⟩

theorem State.hostDrain_completes_or_refused (s : State) (k : Nat) :
    (∃ t, s.hostDrain k = .next t) ∨ (s.hostDrain k = .refused .drainPastEnd ∧ s.out.length < k) := by
  unfold State.hostDrain
  split
  · exact .inl ⟨_, rfl⟩
  · exact .inr ⟨rfl, Nat.lt_of_not_le ‹_›⟩

theorem State.hostSetIn_completes_or_faults (s : State) (a : Nat) (b : Byte) :
    (∃ t, s.hostSetIn a b = .next t) ∨ (s.hostSetIn a b = .fault .noSuchInAddress ∧ 2 ^ 32 - 1 ≤ a) := by
  unfold State.hostSetIn
  split
  · exact .inl ⟨_, rfl⟩
  · exact .inr ⟨rfl, Nat.le_of_not_lt ‹_›⟩

/-! ## The machine -/

/-- Settles O20, by the kind of the host's next step: a command and hardware reset complete, and each other kind has one way to
be stopped. -/
theorem stepStopsOnlyOnHostMisuse : Obligations.StepStopsOnlyOnHostMisuse := by
  intro s
  cases hs : s.host with
  | nil => exact .inl ⟨s, waitsForHost s hs⟩
  | cons x rest =>
    rw [step_of_host hs]
    cases x with
    | write size offset v =>
      rcases State.portWrite_completes_or_refused { s with host := rest } size offset v with h | ⟨h, hbad⟩
      · exact .inl h
      · exact .inr (.inl ⟨h, size, offset, rest, hbad, .inr ⟨v, rfl⟩⟩)
    | writeCmdBytes b0 b1 b2 b3 => exact .inl (State.execute_completes _ _)
    | read size offset =>
      rcases State.portRead_completes_or_refused { s with host := rest } size offset with h | ⟨h, hbad⟩
      · exact .inl h
      · exact .inr (.inl ⟨h, size, offset, rest, hbad, .inl rfl⟩)
    | setIn a b =>
      rcases State.hostSetIn_completes_or_faults { s with host := rest } a b with h | ⟨h, ha⟩
      · exact .inl h
      · exact .inr (.inr (.inr ⟨h, a, b, rest, ha, rfl⟩))
    | drain k =>
      rcases State.hostDrain_completes_or_refused { s with host := rest } k with h | ⟨h, hk⟩
      · exact .inl h
      · exact .inr (.inr (.inl ⟨h, k, rest, hk, rfl⟩))
    | hardwareReset => exact .inl ⟨_, rfl⟩

end Sys2Proof.Machine
end
